-- ==== Sys2Proof/Word.lean ====
section
/-! DEFINITION. The word types of the machine (spec/00_scope.md R9): every value the spec calls a byte,
a word or a program address is a bit vector of a stated width. -/

namespace Sys2Proof

/-- An 8-bit value: the content of a general register, a data-space byte, SREG (R9, R20, R50). -/
abbrev Byte := BitVec 8

/-- A 16-bit value: a program word, a data-space address, a register pair (R9, R22, R32). -/
abbrev Word := BitVec 16

/-- A program-memory word address. R24: the notation allows up to 22 bits; the bits at and above
`PC_BITS` do not exist and read as 0. -/
abbrev PcWord := BitVec 22

end Sys2Proof
end

