-- ==== Sys2Proof/Syntax.lean ====
section
/-! DEFINITION. The instructions of AVR-ISS-119: one constructor for each of the 119 rows of
spec/opcode_table.json, in its order (spec/30_encoding.md R83). The 41 alias rows (R92) have constructors of
their own; their words decode to the row they are an alias of (R90). -/

namespace Sys2Proof

/-- A general register number, 0 to 31 (R20, R85). -/
abbrev Reg := Fin 32

/-- An I/O location, 0 to 63 (R33, R86). -/
abbrev IoAddr := Fin 64

/-- One of the I/O locations that are reached bit by bit, 0 to 31 (R33, R86). -/
abbrev IoLow := Fin 32

/-- A bit number in a byte or in SREG, 0 to 7 (R6, R86). -/
abbrev BitNum := Fin 8

/-- The instructions (R83). Register operands `d`, `r` (R8); `k` an 8-bit or 6-bit constant, a signed
word offset of 7 or 12 bits, or a 16-bit data address; `q` a displacement; `a` an I/O location; `b` a bit
number; `n` an SREG bit number (the source's s). -/
inductive Instr
  -- Table 1, arithmetic and logic (spec/41_arithmetic_logic.md).
  /-- `ADD Rd, Rr` (R114). -/
  | add (d r : Reg)
  /-- `ADC Rd, Rr` (R115). -/
  | adc (d r : Reg)
  /-- `ADIW Rd, K` (R116). -/
  | adiw (d : Reg) (k : BitVec 6)
  /-- `SUB Rd, Rr` (R117). -/
  | sub (d r : Reg)
  /-- `SUBI Rd, K` (R118). -/
  | subi (d : Reg) (k : Byte)
  /-- `SBC Rd, Rr` (R119). -/
  | sbc (d r : Reg)
  /-- `SBCI Rd, K` (R120). -/
  | sbci (d : Reg) (k : Byte)
  /-- `SBIW Rd, K` (R121). -/
  | sbiw (d : Reg) (k : BitVec 6)
  /-- `AND Rd, Rr` (R122). -/
  | and (d r : Reg)
  /-- `ANDI Rd, K` (R123). -/
  | andi (d : Reg) (k : Byte)
  /-- `OR Rd, Rr` (R124). -/
  | or (d r : Reg)
  /-- `ORI Rd, K` (R125). -/
  | ori (d : Reg) (k : Byte)
  /-- `EOR Rd, Rr` (R126). -/
  | eor (d r : Reg)
  /-- `COM Rd` (R127). -/
  | com (d : Reg)
  /-- `NEG Rd` (R128). -/
  | neg (d : Reg)
  /-- `SBR Rd, K`, the word of ORI Rd, K (R129). -/
  | sbr (d : Reg) (k : Byte)
  /-- `CBR Rd, K`, the word of ANDI Rd, (0xFF - K) (R130). -/
  | cbr (d : Reg) (k : Byte)
  /-- `INC Rd` (R131). -/
  | inc (d : Reg)
  /-- `DEC Rd` (R132). -/
  | dec (d : Reg)
  /-- `TST Rd`, the word of AND Rd, Rd (R133). -/
  | tst (d : Reg)
  /-- `CLR Rd`, the word of EOR Rd, Rd (R134). -/
  | clr (d : Reg)
  /-- `SER Rd`, the word of LDI Rd, 0xFF (R135). -/
  | ser (d : Reg)
  -- Table 2, branch (spec/42_branch.md).
  /-- `RJMP k` (R150). -/
  | rjmp (k : BitVec 12)
  /-- `IJMP` (R151). -/
  | ijmp
  /-- `RCALL k` (R152). -/
  | rcall (k : BitVec 12)
  /-- `ICALL` (R153). -/
  | icall
  /-- `RET` (R154). -/
  | ret
  /-- `RETI` (R155). -/
  | reti
  /-- `CPSE Rd, Rr` (R156). -/
  | cpse (d r : Reg)
  /-- `CP Rd, Rr` (R157). -/
  | cp (d r : Reg)
  /-- `CPC Rd, Rr` (R158). -/
  | cpc (d r : Reg)
  /-- `CPI Rd, K` (R159). -/
  | cpi (d : Reg) (k : Byte)
  /-- `SBRC Rr, b` (R160). -/
  | sbrc (r : Reg) (b : BitNum)
  /-- `SBRS Rr, b` (R161). -/
  | sbrs (r : Reg) (b : BitNum)
  /-- `SBIC A, b` (R162). -/
  | sbic (a : IoLow) (b : BitNum)
  /-- `SBIS A, b` (R163). -/
  | sbis (a : IoLow) (b : BitNum)
  /-- `BRBS s, k` (R164). -/
  | brbs (n : BitNum) (k : BitVec 7)
  /-- `BRBC s, k` (R165). -/
  | brbc (n : BitNum) (k : BitVec 7)
  /-- `BREQ k`, the word of BRBS 1, k (R166). -/
  | breq (k : BitVec 7)
  /-- `BRNE k`, the word of BRBC 1, k (R167). -/
  | brne (k : BitVec 7)
  /-- `BRCS k`, the word of BRBS 0, k (R168). -/
  | brcs (k : BitVec 7)
  /-- `BRCC k`, the word of BRBC 0, k (R169). -/
  | brcc (k : BitVec 7)
  /-- `BRSH k`, the word of BRBC 0, k (R170). -/
  | brsh (k : BitVec 7)
  /-- `BRLO k`, the word of BRBS 0, k (R171). -/
  | brlo (k : BitVec 7)
  /-- `BRMI k`, the word of BRBS 2, k (R172). -/
  | brmi (k : BitVec 7)
  /-- `BRPL k`, the word of BRBC 2, k (R173). -/
  | brpl (k : BitVec 7)
  /-- `BRGE k`, the word of BRBC 4, k (R174). -/
  | brge (k : BitVec 7)
  /-- `BRLT k`, the word of BRBS 4, k (R175). -/
  | brlt (k : BitVec 7)
  /-- `BRHS k`, the word of BRBS 5, k (R176). -/
  | brhs (k : BitVec 7)
  /-- `BRHC k`, the word of BRBC 5, k (R177). -/
  | brhc (k : BitVec 7)
  /-- `BRTS k`, the word of BRBS 6, k (R178). -/
  | brts (k : BitVec 7)
  /-- `BRTC k`, the word of BRBC 6, k (R179). -/
  | brtc (k : BitVec 7)
  /-- `BRVS k`, the word of BRBS 3, k (R180). -/
  | brvs (k : BitVec 7)
  /-- `BRVC k`, the word of BRBC 3, k (R181). -/
  | brvc (k : BitVec 7)
  /-- `BRIE k`, the word of BRBS 7, k (R182). -/
  | brie (k : BitVec 7)
  /-- `BRID k`, the word of BRBC 7, k (R183). -/
  | brid (k : BitVec 7)
  -- Table 3, data transfer (spec/43_data_transfer.md).
  /-- `MOV Rd, Rr` (R205). -/
  | mov (d r : Reg)
  /-- `LDI Rd, K` (R206). -/
  | ldi (d : Reg) (k : Byte)
  /-- `LDS Rd, k` (R207). -/
  | lds (d : Reg) (k : Word)
  /-- `LD Rd, X` (R208). -/
  | ldX (d : Reg)
  /-- `LD Rd, X+` (R209). -/
  | ldXInc (d : Reg)
  /-- `LD Rd, -X` (R210). -/
  | ldXDec (d : Reg)
  /-- `LD Rd, Y` (R211). -/
  | ldY (d : Reg)
  /-- `LD Rd, Y+` (R212). -/
  | ldYInc (d : Reg)
  /-- `LD Rd, -Y` (R213). -/
  | ldYDec (d : Reg)
  /-- `LDD Rd, Y+q` (R214). -/
  | lddY (d : Reg) (q : BitVec 6)
  /-- `LD Rd, Z` (R215). -/
  | ldZ (d : Reg)
  /-- `LD Rd, Z+` (R216). -/
  | ldZInc (d : Reg)
  /-- `LD Rd, -Z` (R217). -/
  | ldZDec (d : Reg)
  /-- `LDD Rd, Z+q` (R218). -/
  | lddZ (d : Reg) (q : BitVec 6)
  /-- `STS k, Rr` (R219). -/
  | sts (k : Word) (r : Reg)
  /-- `ST X, Rr` (R220). -/
  | stX (r : Reg)
  /-- `ST X+, Rr` (R221). -/
  | stXInc (r : Reg)
  /-- `ST -X, Rr` (R222). -/
  | stXDec (r : Reg)
  /-- `ST Y, Rr` (R223). -/
  | stY (r : Reg)
  /-- `ST Y+, Rr` (R224). -/
  | stYInc (r : Reg)
  /-- `ST -Y, Rr` (R225). -/
  | stYDec (r : Reg)
  /-- `STD Y+q, Rr` (R226). -/
  | stdY (q : BitVec 6) (r : Reg)
  /-- `ST Z, Rr` (R227). -/
  | stZ (r : Reg)
  /-- `ST Z+, Rr` (R228). -/
  | stZInc (r : Reg)
  /-- `ST -Z, Rr` (R229). -/
  | stZDec (r : Reg)
  /-- `STD Z+q, Rr` (R230). -/
  | stdZ (q : BitVec 6) (r : Reg)
  /-- `LPM` (R231). -/
  | lpm
  /-- `IN Rd, A` (R232). -/
  | inp (d : Reg) (a : IoAddr)
  /-- `OUT A, Rr` (R233). -/
  | out (a : IoAddr) (r : Reg)
  /-- `PUSH Rr` (R234). -/
  | push (r : Reg)
  /-- `POP Rd` (R235). -/
  | pop (d : Reg)
  -- Table 4, bit and bit-test (spec/44_bit_and_bit_test.md).
  /-- `LSL Rd`, the word of ADD Rd, Rd (R252). -/
  | lsl (d : Reg)
  /-- `LSR Rd` (R253). -/
  | lsr (d : Reg)
  /-- `ROL Rd`, the word of ADC Rd, Rd (R254). -/
  | rol (d : Reg)
  /-- `ROR Rd` (R255). -/
  | ror (d : Reg)
  /-- `ASR Rd` (R256). -/
  | asr (d : Reg)
  /-- `SWAP Rd` (R257). -/
  | swap (d : Reg)
  /-- `SBI A, b` (R258). -/
  | sbi (a : IoLow) (b : BitNum)
  /-- `CBI A, b` (R259). -/
  | cbi (a : IoLow) (b : BitNum)
  /-- `BST Rr, b` (R260). -/
  | bst (r : Reg) (b : BitNum)
  /-- `BLD Rd, b` (R261). -/
  | bld (d : Reg) (b : BitNum)
  /-- `BSET s` (R262). -/
  | bset (n : BitNum)
  /-- `BCLR s` (R263). -/
  | bclr (n : BitNum)
  /-- `SEC`, the word of BSET 0 (R264). -/
  | sec
  /-- `CLC`, the word of BCLR 0 (R265). -/
  | clc
  /-- `SEN`, the word of BSET 2 (R266). -/
  | sen
  /-- `CLN`, the word of BCLR 2 (R267). -/
  | cln
  /-- `SEZ`, the word of BSET 1 (R268). -/
  | sez
  /-- `CLZ`, the word of BCLR 1 (R269). -/
  | clz
  /-- `SEI`, the word of BSET 7 (R270). -/
  | sei
  /-- `CLI`, the word of BCLR 7 (R271). -/
  | cli
  /-- `SES`, the word of BSET 4 (R272). -/
  | ses
  /-- `CLS`, the word of BCLR 4 (R273). -/
  | cls
  /-- `SEV`, the word of BSET 3 (R274). -/
  | sev
  /-- `CLV`, the word of BCLR 3 (R275). -/
  | clv
  /-- `SET`, the word of BSET 6 (R276). -/
  | set
  /-- `CLT`, the word of BCLR 6 (R277). -/
  | clt
  /-- `SEH`, the word of BSET 5 (R278). -/
  | seh
  /-- `CLH`, the word of BCLR 5 (R279). -/
  | clh
  -- Table 5, MCU control (spec/45_mcu_control.md).
  /-- `BREAK` (R290). -/
  | brk
  /-- `NOP` (R291). -/
  | nop
  /-- `SLEEP` (R292). -/
  | sleep
  /-- `WDR` (R293). -/
  | wdr
deriving DecidableEq, Repr

end Sys2Proof
end

