-- ==== Sys2Proof/WellFormed.lean ====
section
/-! DEFINITION. Which instructions the encodings admit (spec/30_encoding.md R87). The types of the operands hold
every range but two: the immediate format names only R16 to R31, and ADIW and SBIW only the pairs at
R24, R26, R28, R30 (R85). -/

namespace Sys2Proof

/-- The registers a four-bit register field names: R16 to R31 (R85, R87). -/
def isUpperReg (d : Reg) : Bool := decide (16 ≤ d.val)

/-- The low registers of the pairs ADIW and SBIW name: R24, R26, R28, R30 (R85, R87). -/
def isPairReg (d : Reg) : Bool := d.val == 24 || d.val == 26 || d.val == 28 || d.val == 30

/-- An instruction whose operands lie in the ranges of R87. -/
def Instr.wellFormed : Instr → Bool
  | .add _ _ => true
  | .adc _ _ => true
  | .adiw d _ => isPairReg d
  | .sub _ _ => true
  | .subi d _ => isUpperReg d
  | .sbc _ _ => true
  | .sbci d _ => isUpperReg d
  | .sbiw d _ => isPairReg d
  | .and _ _ => true
  | .andi d _ => isUpperReg d
  | .or _ _ => true
  | .ori d _ => isUpperReg d
  | .eor _ _ => true
  | .com _ => true
  | .neg _ => true
  | .sbr d _ => isUpperReg d
  | .cbr d _ => isUpperReg d
  | .inc _ => true
  | .dec _ => true
  | .tst _ => true
  | .clr _ => true
  | .ser d => isUpperReg d
  | .rjmp _ => true
  | .ijmp => true
  | .rcall _ => true
  | .icall => true
  | .ret => true
  | .reti => true
  | .cpse _ _ => true
  | .cp _ _ => true
  | .cpc _ _ => true
  | .cpi d _ => isUpperReg d
  | .sbrc _ _ => true
  | .sbrs _ _ => true
  | .sbic _ _ => true
  | .sbis _ _ => true
  | .brbs _ _ => true
  | .brbc _ _ => true
  | .breq _ => true
  | .brne _ => true
  | .brcs _ => true
  | .brcc _ => true
  | .brsh _ => true
  | .brlo _ => true
  | .brmi _ => true
  | .brpl _ => true
  | .brge _ => true
  | .brlt _ => true
  | .brhs _ => true
  | .brhc _ => true
  | .brts _ => true
  | .brtc _ => true
  | .brvs _ => true
  | .brvc _ => true
  | .brie _ => true
  | .brid _ => true
  | .mov _ _ => true
  | .ldi d _ => isUpperReg d
  | .lds _ _ => true
  | .ldX _ => true
  | .ldXInc _ => true
  | .ldXDec _ => true
  | .ldY _ => true
  | .ldYInc _ => true
  | .ldYDec _ => true
  | .lddY _ _ => true
  | .ldZ _ => true
  | .ldZInc _ => true
  | .ldZDec _ => true
  | .lddZ _ _ => true
  | .sts _ _ => true
  | .stX _ => true
  | .stXInc _ => true
  | .stXDec _ => true
  | .stY _ => true
  | .stYInc _ => true
  | .stYDec _ => true
  | .stdY _ _ => true
  | .stZ _ => true
  | .stZInc _ => true
  | .stZDec _ => true
  | .stdZ _ _ => true
  | .lpm => true
  | .inp _ _ => true
  | .out _ _ => true
  | .push _ => true
  | .pop _ => true
  | .lsl _ => true
  | .lsr _ => true
  | .rol _ => true
  | .ror _ => true
  | .asr _ => true
  | .swap _ => true
  | .sbi _ _ => true
  | .cbi _ _ => true
  | .bst _ _ => true
  | .bld _ _ => true
  | .bset _ => true
  | .bclr _ => true
  | .sec => true
  | .clc => true
  | .sen => true
  | .cln => true
  | .sez => true
  | .clz => true
  | .sei => true
  | .cli => true
  | .ses => true
  | .cls => true
  | .sev => true
  | .clv => true
  | .set => true
  | .clt => true
  | .seh => true
  | .clh => true
  | .brk => true
  | .nop => true
  | .sleep => true
  | .wdr => true

end Sys2Proof
end

