-- ==== Sys2Proof/Decode.lean ====
section
/-! DEFINITION. The binary level (spec/30_encoding.md): the decoder, a table of mask, pattern and meaning of each
non-alias row (R90), total on any bytes and rejecting by name; the encoder, written from the formats of R84;
and the base instruction of an alias (R92). -/

namespace Sys2Proof

/-! ## Fields of an instruction word (R84 to R86) -/

/-- The five-bit register field, bits 8:4 (R85). -/
def fieldD (w : Word) : Reg := ⟨(w.extractLsb' 4 5).toNat, (w.extractLsb' 4 5).isLt⟩

/-- The second register of format RR: bit 9 is its most significant bit, then bits 3:0 (R85). -/
def fieldR (w : Word) : Reg :=
  ⟨(w.extractLsb' 9 1 ++ w.extractLsb' 0 4).toNat, (w.extractLsb' 9 1 ++ w.extractLsb' 0 4).isLt⟩

/-- The four-bit register field of format RI, bits 7:4: registers 16 to 31 (R85). -/
def fieldUpper (w : Word) : Reg :=
  ⟨16 + (w.extractLsb' 4 4).toNat, Nat.add_lt_add_left (w.extractLsb' 4 4).isLt 16⟩

/-- The two-bit register field of format IW, bits 5:4: registers 24, 26, 28, 30 (R85). -/
def fieldPair (w : Word) : Reg :=
  ⟨24 + 2 * (w.extractLsb' 4 2).toNat, by have h := (w.extractLsb' 4 2).isLt; omega⟩

/-- K of format RI: bits 11:8, then 3:0 (R86). -/
def fieldK8 (w : Word) : Byte := w.extractLsb' 8 4 ++ w.extractLsb' 0 4

/-- K of format IW: bits 7:6, then 3:0 (R86). -/
def fieldK6 (w : Word) : BitVec 6 := w.extractLsb' 6 2 ++ w.extractLsb' 0 4

/-- q of format DISP: bit 13, bits 11:10, bits 2:0 (R86). -/
def fieldQ (w : Word) : BitVec 6 := w.extractLsb' 13 1 ++ w.extractLsb' 10 2 ++ w.extractLsb' 0 3

/-- k of format BR: bits 9:3 (R86). -/
def fieldOff7 (w : Word) : BitVec 7 := w.extractLsb' 3 7

/-- k of format REL: bits 11:0 (R86). -/
def fieldOff12 (w : Word) : BitVec 12 := w.extractLsb' 0 12

/-- A of format IO: bits 10:9, then 3:0 (R86). -/
def fieldA6 (w : Word) : IoAddr :=
  ⟨(w.extractLsb' 9 2 ++ w.extractLsb' 0 4).toNat, (w.extractLsb' 9 2 ++ w.extractLsb' 0 4).isLt⟩

/-- A of format IOB: bits 7:3 (R86). -/
def fieldA5 (w : Word) : IoLow := ⟨(w.extractLsb' 3 5).toNat, (w.extractLsb' 3 5).isLt⟩

/-- The bit number b, and s of format BR: bits 2:0 (R86). -/
def fieldB (w : Word) : BitNum := ⟨(w.extractLsb' 0 3).toNat, (w.extractLsb' 0 3).isLt⟩

/-- s of format SF: bits 6:4 (R86). -/
def fieldS (w : Word) : BitNum := ⟨(w.extractLsb' 4 3).toNat, (w.extractLsb' 4 3).isLt⟩

/-! ## The decoder (R88 to R91, R100) -/

/-- One row of the opcode map: a first word `w` is of the row when `w &&& mask = pattern`; `build` reads the
operands from the first word and, for LDS and STS, the second. -/
structure OpcodeRow where
  mask : Word
  pattern : Word
  build : Word → Word → Instr

/-- Whether the first word is of the row (R90). -/
def OpcodeRow.matchesWord (row : OpcodeRow) (w0 : Word) : Bool := w0 &&& row.mask == row.pattern

/-- The non-alias rows of Table 1, arithmetic and logic of the source. -/
def arithRows : List OpcodeRow := [
  ⟨0xFC00, 0x0C00, fun w _ => .add (fieldD w) (fieldR w)⟩,
  ⟨0xFC00, 0x1C00, fun w _ => .adc (fieldD w) (fieldR w)⟩,
  ⟨0xFF00, 0x9600, fun w _ => .adiw (fieldPair w) (fieldK6 w)⟩,
  ⟨0xFC00, 0x1800, fun w _ => .sub (fieldD w) (fieldR w)⟩,
  ⟨0xF000, 0x5000, fun w _ => .subi (fieldUpper w) (fieldK8 w)⟩,
  ⟨0xFC00, 0x0800, fun w _ => .sbc (fieldD w) (fieldR w)⟩,
  ⟨0xF000, 0x4000, fun w _ => .sbci (fieldUpper w) (fieldK8 w)⟩,
  ⟨0xFF00, 0x9700, fun w _ => .sbiw (fieldPair w) (fieldK6 w)⟩,
  ⟨0xFC00, 0x2000, fun w _ => .and (fieldD w) (fieldR w)⟩,
  ⟨0xF000, 0x7000, fun w _ => .andi (fieldUpper w) (fieldK8 w)⟩,
  ⟨0xFC00, 0x2800, fun w _ => .or (fieldD w) (fieldR w)⟩,
  ⟨0xF000, 0x6000, fun w _ => .ori (fieldUpper w) (fieldK8 w)⟩,
  ⟨0xFC00, 0x2400, fun w _ => .eor (fieldD w) (fieldR w)⟩,
  ⟨0xFE0F, 0x9400, fun w _ => .com (fieldD w)⟩,
  ⟨0xFE0F, 0x9401, fun w _ => .neg (fieldD w)⟩,
  ⟨0xFE0F, 0x9403, fun w _ => .inc (fieldD w)⟩,
  ⟨0xFE0F, 0x940A, fun w _ => .dec (fieldD w)⟩]

/-- The non-alias rows of Table 2, branch of the source. -/
def branchRows : List OpcodeRow := [
  ⟨0xF000, 0xC000, fun w _ => .rjmp (fieldOff12 w)⟩,
  ⟨0xFFFF, 0x9409, fun _ _ => .ijmp⟩,
  ⟨0xF000, 0xD000, fun w _ => .rcall (fieldOff12 w)⟩,
  ⟨0xFFFF, 0x9509, fun _ _ => .icall⟩,
  ⟨0xFFFF, 0x9508, fun _ _ => .ret⟩,
  ⟨0xFFFF, 0x9518, fun _ _ => .reti⟩,
  ⟨0xFC00, 0x1000, fun w _ => .cpse (fieldD w) (fieldR w)⟩,
  ⟨0xFC00, 0x1400, fun w _ => .cp (fieldD w) (fieldR w)⟩,
  ⟨0xFC00, 0x0400, fun w _ => .cpc (fieldD w) (fieldR w)⟩,
  ⟨0xF000, 0x3000, fun w _ => .cpi (fieldUpper w) (fieldK8 w)⟩,
  ⟨0xFE08, 0xFC00, fun w _ => .sbrc (fieldD w) (fieldB w)⟩,
  ⟨0xFE08, 0xFE00, fun w _ => .sbrs (fieldD w) (fieldB w)⟩,
  ⟨0xFF00, 0x9900, fun w _ => .sbic (fieldA5 w) (fieldB w)⟩,
  ⟨0xFF00, 0x9B00, fun w _ => .sbis (fieldA5 w) (fieldB w)⟩,
  ⟨0xFC00, 0xF000, fun w _ => .brbs (fieldB w) (fieldOff7 w)⟩,
  ⟨0xFC00, 0xF400, fun w _ => .brbc (fieldB w) (fieldOff7 w)⟩]

/-- The non-alias rows of Table 3, data transfer of the source. -/
def transferRows : List OpcodeRow := [
  ⟨0xFC00, 0x2C00, fun w _ => .mov (fieldD w) (fieldR w)⟩,
  ⟨0xF000, 0xE000, fun w _ => .ldi (fieldUpper w) (fieldK8 w)⟩,
  ⟨0xFE0F, 0x9000, fun w k => .lds (fieldD w) k⟩,
  ⟨0xFE0F, 0x900C, fun w _ => .ldX (fieldD w)⟩,
  ⟨0xFE0F, 0x900D, fun w _ => .ldXInc (fieldD w)⟩,
  ⟨0xFE0F, 0x900E, fun w _ => .ldXDec (fieldD w)⟩,
  ⟨0xFE0F, 0x9009, fun w _ => .ldYInc (fieldD w)⟩,
  ⟨0xFE0F, 0x900A, fun w _ => .ldYDec (fieldD w)⟩,
  ⟨0xD208, 0x8008, fun w _ => if fieldQ w = 0 then .ldY (fieldD w) else .lddY (fieldD w) (fieldQ w)⟩,
  ⟨0xFE0F, 0x9001, fun w _ => .ldZInc (fieldD w)⟩,
  ⟨0xFE0F, 0x9002, fun w _ => .ldZDec (fieldD w)⟩,
  ⟨0xD208, 0x8000, fun w _ => if fieldQ w = 0 then .ldZ (fieldD w) else .lddZ (fieldD w) (fieldQ w)⟩,
  ⟨0xFE0F, 0x9200, fun w k => .sts k (fieldD w)⟩,
  ⟨0xFE0F, 0x920C, fun w _ => .stX (fieldD w)⟩,
  ⟨0xFE0F, 0x920D, fun w _ => .stXInc (fieldD w)⟩,
  ⟨0xFE0F, 0x920E, fun w _ => .stXDec (fieldD w)⟩,
  ⟨0xFE0F, 0x9209, fun w _ => .stYInc (fieldD w)⟩,
  ⟨0xFE0F, 0x920A, fun w _ => .stYDec (fieldD w)⟩,
  ⟨0xD208, 0x8208, fun w _ => if fieldQ w = 0 then .stY (fieldD w) else .stdY (fieldQ w) (fieldD w)⟩,
  ⟨0xFE0F, 0x9201, fun w _ => .stZInc (fieldD w)⟩,
  ⟨0xFE0F, 0x9202, fun w _ => .stZDec (fieldD w)⟩,
  ⟨0xD208, 0x8200, fun w _ => if fieldQ w = 0 then .stZ (fieldD w) else .stdZ (fieldQ w) (fieldD w)⟩,
  ⟨0xFFFF, 0x95C8, fun _ _ => .lpm⟩,
  ⟨0xF800, 0xB000, fun w _ => .inp (fieldD w) (fieldA6 w)⟩,
  ⟨0xF800, 0xB800, fun w _ => .out (fieldA6 w) (fieldD w)⟩,
  ⟨0xFE0F, 0x920F, fun w _ => .push (fieldD w)⟩,
  ⟨0xFE0F, 0x900F, fun w _ => .pop (fieldD w)⟩]

/-- The non-alias rows of Tables 4 and 5, bit and bit-test and MCU control of the source. -/
def bitRows : List OpcodeRow := [
  ⟨0xFE0F, 0x9406, fun w _ => .lsr (fieldD w)⟩,
  ⟨0xFE0F, 0x9407, fun w _ => .ror (fieldD w)⟩,
  ⟨0xFE0F, 0x9405, fun w _ => .asr (fieldD w)⟩,
  ⟨0xFE0F, 0x9402, fun w _ => .swap (fieldD w)⟩,
  ⟨0xFF00, 0x9A00, fun w _ => .sbi (fieldA5 w) (fieldB w)⟩,
  ⟨0xFF00, 0x9800, fun w _ => .cbi (fieldA5 w) (fieldB w)⟩,
  ⟨0xFE08, 0xFA00, fun w _ => .bst (fieldD w) (fieldB w)⟩,
  ⟨0xFE08, 0xF800, fun w _ => .bld (fieldD w) (fieldB w)⟩,
  ⟨0xFF8F, 0x9408, fun w _ => .bset (fieldS w)⟩,
  ⟨0xFF8F, 0x9488, fun w _ => .bclr (fieldS w)⟩,
  ⟨0xFFFF, 0x9598, fun _ _ => .brk⟩,
  ⟨0xFFFF, 0x0000, fun _ _ => .nop⟩,
  ⟨0xFFFF, 0x9588, fun _ _ => .sleep⟩,
  ⟨0xFFFF, 0x95A8, fun _ _ => .wdr⟩]

/-- The opcode map: the non-alias rows of spec/opcode_table.json (R88 to R91). The rows `LD Rd,Y`, `LD Rd,Z`,
`ST Y,Rr`, `ST Z,Rr` lie inside LDD and STD (R90): here they are what those rows build where q = 0. -/
def opcodeRows : List OpcodeRow := arithRows ++ branchRows ++ transferRows ++ bitRows

/-- R82: an instruction has two words if and only if `w0 & 0xFC0F = 0x9000`. -/
def isTwoWord (w0 : Word) : Bool := w0 &&& 0xFC0F == 0x9000

/-- R90: the instruction of a first word and, where it has two words, of its second word `w1`; none
when the first word matches no row (R100). -/
def decodeWord (w0 w1 : Word) : Option Instr :=
  (opcodeRows.find? (·.matchesWord w0)).map (·.build w0 w1)

/-- Whether a first word is legal: it matches a row (R90, R100). The second word of LDS and STS is
never illegal (R101). -/
def isLegalWord (w0 : Word) : Bool := opcodeRows.any (·.matchesWord w0)

/-- Why bytes are no instruction. `illegalOpcode` is R100; `truncated` says that the bytes end inside an
instruction word. Both are refusals to give a meaning, and safe. -/
inductive DecodeError
  | illegalOpcode (w0 : Word)
  | truncated
deriving DecidableEq, Repr

/-- A program word from its two bytes, the low byte at the lower address (R59, R65). -/
def wordOfBytes (low high : Byte) : Word := high ++ low

/-- The low byte of a word. -/
def lowByte (w : Word) : Byte := w.extractLsb' 0 8

/-- The high byte of a word. -/
def highByte (w : Word) : Byte := w.extractLsb' 8 8

/-- The bytes of a program word in address order (R65). -/
def bytesOfWord (w : Word) : List Byte := [lowByte w, highByte w]

/-- The decoder on bytes in address order: the instruction and the bytes after it, or why there is none. -/
def decode : List Byte → Except DecodeError (Instr × List Byte)
  | b0 :: b1 :: rest =>
    let w0 := wordOfBytes b0 b1
    if isTwoWord w0 then
      match rest with
      | b2 :: b3 :: rest' =>
        match decodeWord w0 (wordOfBytes b2 b3) with
        | some i => .ok (i, rest')
        | none => .error (.illegalOpcode w0)
      | _ => .error .truncated
    else
      match decodeWord w0 0 with
      | some i => .ok (i, rest)
      | none => .error (.illegalOpcode w0)
  | _ => .error .truncated

/-- What the decoder reads from an instruction whose bits are `w`, bit 0 the least significant bit of the
first word and the second word's bits counting on from 16; every bit above `nbits` is 0. -/
def decodeTableWord (nbits w : Nat) : Option Instr :=
  let v := w % 2 ^ nbits
  match decode (bytesOfWord (BitVec.ofNat 16 v) ++ bytesOfWord (BitVec.ofNat 16 (v / 2 ^ 16))) with
  | .ok (i, _) => some i
  | .error _ => none

/-! ## The encoder (R84, R85, R86) -/

/-- A register number as a five-bit field. -/
def regBits (r : Reg) : BitVec 5 := BitVec.ofNat 5 r.val

/-- A bit number as a three-bit field. -/
def numBits (n : BitNum) : BitVec 3 := BitVec.ofNat 3 n.val

/-- Format RR: `oooo oord dddd rrrr`. -/
def formatRR (op : BitVec 6) (d r : Reg) : Word :=
  op ++ (regBits r).extractLsb' 4 1 ++ regBits d ++ (regBits r).extractLsb' 0 4

/-- Format RI: `oooo KKKK dddd KKKK`, the field holding d - 16. -/
def formatRI (op : BitVec 4) (d : Reg) (k : Byte) : Word :=
  op ++ k.extractLsb' 4 4 ++ BitVec.ofNat 4 (d.val - 16) ++ k.extractLsb' 0 4

/-- Format R1: `1001 010d dddd oooo`. -/
def formatR1 (d : Reg) (op : BitVec 4) : Word := 0b1001010#7 ++ regBits d ++ op

/-- Format IW: `1001 011o KKdd KKKK`, the field holding (d - 24) / 2. -/
def formatIW (o : BitVec 1) (d : Reg) (k : BitVec 6) : Word :=
  0b1001011#7 ++ o ++ k.extractLsb' 4 2 ++ BitVec.ofNat 2 ((d.val - 24) / 2) ++ k.extractLsb' 0 4

/-- Formats LS and LS32: `1001 00sd dddd mmmm`, the addressing mode `mmmm` of R89. -/
def formatLS (s : BitVec 1) (d : Reg) (mode : BitVec 4) : Word := 0b100100#6 ++ s ++ regBits d ++ mode

/-- Format DISP: `10q0 qqsd dddd yqqq`. -/
def formatDisp (s : BitVec 1) (d : Reg) (y : BitVec 1) (q : BitVec 6) : Word :=
  0b10#2 ++ q.extractLsb' 5 1 ++ 0b0#1 ++ q.extractLsb' 3 2 ++ s ++ regBits d ++ y ++ q.extractLsb' 0 3

/-- Format IO: `1011 sAAd dddd AAAA`. -/
def formatIO (s : BitVec 1) (a : IoAddr) (d : Reg) : Word :=
  0b1011#4 ++ s ++ (BitVec.ofNat 6 a.val).extractLsb' 4 2 ++ regBits d ++ (BitVec.ofNat 6 a.val).extractLsb' 0 4

/-- Format IOB: `1001 10oo AAAA Abbb`. -/
def formatIOB (op : BitVec 2) (a : IoLow) (b : BitNum) : Word :=
  0b100110#6 ++ op ++ BitVec.ofNat 5 a.val ++ numBits b

/-- Format RB: `1111 1ood dddd 0bbb`. -/
def formatRB (op : BitVec 2) (r : Reg) (b : BitNum) : Word :=
  0b11111#5 ++ op ++ regBits r ++ 0b0#1 ++ numBits b

/-- Format BR: `1111 0okk kkkk ksss`. -/
def formatBR (o : BitVec 1) (n : BitNum) (k : BitVec 7) : Word := 0b11110#5 ++ o ++ k ++ numBits n

/-- Format REL: `110o kkkk kkkk kkkk`. -/
def formatRel (o : BitVec 1) (k : BitVec 12) : Word := 0b110#3 ++ o ++ k

/-- Format SF: `1001 0100 osss 1000`. -/
def formatSF (o : BitVec 1) (n : BitNum) : Word := 0b10010100#8 ++ o ++ numBits n ++ 0b1000#4

/-- The first word of an instruction (R84; the alias rows by R92). Meant for well-formed instructions. -/
def encodeWord : Instr → Word
  | .add d r => formatRR 0b000011 d r
  | .adc d r => formatRR 0b000111 d r
  | .adiw d k => formatIW 0b0 d k
  | .sub d r => formatRR 0b000110 d r
  | .subi d k => formatRI 0b0101 d k
  | .sbc d r => formatRR 0b000010 d r
  | .sbci d k => formatRI 0b0100 d k
  | .sbiw d k => formatIW 0b1 d k
  | .and d r => formatRR 0b001000 d r
  | .andi d k => formatRI 0b0111 d k
  | .or d r => formatRR 0b001010 d r
  | .ori d k => formatRI 0b0110 d k
  | .eor d r => formatRR 0b001001 d r
  | .com d => formatR1 d 0b0000
  | .neg d => formatR1 d 0b0001
  | .sbr d k => formatRI 0b0110 d k
  | .cbr d k => formatRI 0b0111 d (0xFF - k)
  | .inc d => formatR1 d 0b0011
  | .dec d => formatR1 d 0b1010
  | .tst d => formatRR 0b001000 d d
  | .clr d => formatRR 0b001001 d d
  | .ser d => formatRI 0b1110 d 0xFF
  | .rjmp k => formatRel 0 k
  | .ijmp => 0x9409
  | .rcall k => formatRel 1 k
  | .icall => 0x9509
  | .ret => 0x9508
  | .reti => 0x9518
  | .cpse d r => formatRR 0b000100 d r
  | .cp d r => formatRR 0b000101 d r
  | .cpc d r => formatRR 0b000001 d r
  | .cpi d k => formatRI 0b0011 d k
  | .sbrc r b => formatRB 0b10 r b
  | .sbrs r b => formatRB 0b11 r b
  | .sbic a b => formatIOB 0b01 a b
  | .sbis a b => formatIOB 0b11 a b
  | .brbs n k => formatBR 0 n k
  | .brbc n k => formatBR 1 n k
  | .breq k => formatBR 0 1 k
  | .brne k => formatBR 1 1 k
  | .brcs k => formatBR 0 0 k
  | .brcc k => formatBR 1 0 k
  | .brsh k => formatBR 1 0 k
  | .brlo k => formatBR 0 0 k
  | .brmi k => formatBR 0 2 k
  | .brpl k => formatBR 1 2 k
  | .brge k => formatBR 1 4 k
  | .brlt k => formatBR 0 4 k
  | .brhs k => formatBR 0 5 k
  | .brhc k => formatBR 1 5 k
  | .brts k => formatBR 0 6 k
  | .brtc k => formatBR 1 6 k
  | .brvs k => formatBR 0 3 k
  | .brvc k => formatBR 1 3 k
  | .brie k => formatBR 0 7 k
  | .brid k => formatBR 1 7 k
  | .mov d r => formatRR 0b001011 d r
  | .ldi d k => formatRI 0b1110 d k
  | .lds d _ => formatLS 0 d 0b0000
  | .ldX d => formatLS 0 d 0b1100
  | .ldXInc d => formatLS 0 d 0b1101
  | .ldXDec d => formatLS 0 d 0b1110
  | .ldY d => formatDisp 0 d 1 0
  | .ldYInc d => formatLS 0 d 0b1001
  | .ldYDec d => formatLS 0 d 0b1010
  | .lddY d q => formatDisp 0 d 1 q
  | .ldZ d => formatDisp 0 d 0 0
  | .ldZInc d => formatLS 0 d 0b0001
  | .ldZDec d => formatLS 0 d 0b0010
  | .lddZ d q => formatDisp 0 d 0 q
  | .sts _ r => formatLS 1 r 0b0000
  | .stX r => formatLS 1 r 0b1100
  | .stXInc r => formatLS 1 r 0b1101
  | .stXDec r => formatLS 1 r 0b1110
  | .stY r => formatDisp 1 r 1 0
  | .stYInc r => formatLS 1 r 0b1001
  | .stYDec r => formatLS 1 r 0b1010
  | .stdY q r => formatDisp 1 r 1 q
  | .stZ r => formatDisp 1 r 0 0
  | .stZInc r => formatLS 1 r 0b0001
  | .stZDec r => formatLS 1 r 0b0010
  | .stdZ q r => formatDisp 1 r 0 q
  | .lpm => 0x95C8
  | .inp d a => formatIO 0 a d
  | .out a r => formatIO 1 a r
  | .push r => formatLS 1 r 0b1111
  | .pop d => formatLS 0 d 0b1111
  | .lsl d => formatRR 0b000011 d d
  | .lsr d => formatR1 d 0b0110
  | .rol d => formatRR 0b000111 d d
  | .ror d => formatR1 d 0b0111
  | .asr d => formatR1 d 0b0101
  | .swap d => formatR1 d 0b0010
  | .sbi a b => formatIOB 0b10 a b
  | .cbi a b => formatIOB 0b00 a b
  | .bst r b => formatRB 0b01 r b
  | .bld d b => formatRB 0b00 d b
  | .bset n => formatSF 0 n
  | .bclr n => formatSF 1 n
  | .sec => formatSF 0 0
  | .clc => formatSF 1 0
  | .sen => formatSF 0 2
  | .cln => formatSF 1 2
  | .sez => formatSF 0 1
  | .clz => formatSF 1 1
  | .sei => formatSF 0 7
  | .cli => formatSF 1 7
  | .ses => formatSF 0 4
  | .cls => formatSF 1 4
  | .sev => formatSF 0 3
  | .clv => formatSF 1 3
  | .set => formatSF 0 6
  | .clt => formatSF 1 6
  | .seh => formatSF 0 5
  | .clh => formatSF 1 5
  | .brk => 0x9598
  | .nop => 0x0000
  | .sleep => 0x9588
  | .wdr => 0x95A8

/-- The words of an instruction: LDS and STS carry their 16-bit data address in a second word (R82). -/
def encode (i : Instr) : List Word :=
  match i with
  | .lds _ k => [encodeWord i, k]
  | .sts k _ => [encodeWord i, k]
  | _ => [encodeWord i]

/-! ## The base instruction of an alias (R92) -/

/-- The instruction that the word of `i` decodes to: the base of an alias row (R92), `LD` and `ST` with Y or Z for
a displacement of 0 (R89, R90), and every other instruction itself. -/
def Instr.base : Instr → Instr
  | .add d r => .add d r
  | .adc d r => .adc d r
  | .adiw d k => .adiw d k
  | .sub d r => .sub d r
  | .subi d k => .subi d k
  | .sbc d r => .sbc d r
  | .sbci d k => .sbci d k
  | .sbiw d k => .sbiw d k
  | .and d r => .and d r
  | .andi d k => .andi d k
  | .or d r => .or d r
  | .ori d k => .ori d k
  | .eor d r => .eor d r
  | .com d => .com d
  | .neg d => .neg d
  | .sbr d k => .ori d k
  | .cbr d k => .andi d (0xFF - k)
  | .inc d => .inc d
  | .dec d => .dec d
  | .tst d => .and d d
  | .clr d => .eor d d
  | .ser d => .ldi d 0xFF
  | .rjmp k => .rjmp k
  | .ijmp => .ijmp
  | .rcall k => .rcall k
  | .icall => .icall
  | .ret => .ret
  | .reti => .reti
  | .cpse d r => .cpse d r
  | .cp d r => .cp d r
  | .cpc d r => .cpc d r
  | .cpi d k => .cpi d k
  | .sbrc r b => .sbrc r b
  | .sbrs r b => .sbrs r b
  | .sbic a b => .sbic a b
  | .sbis a b => .sbis a b
  | .brbs n k => .brbs n k
  | .brbc n k => .brbc n k
  | .breq k => .brbs 1 k
  | .brne k => .brbc 1 k
  | .brcs k => .brbs 0 k
  | .brcc k => .brbc 0 k
  | .brsh k => .brbc 0 k
  | .brlo k => .brbs 0 k
  | .brmi k => .brbs 2 k
  | .brpl k => .brbc 2 k
  | .brge k => .brbc 4 k
  | .brlt k => .brbs 4 k
  | .brhs k => .brbs 5 k
  | .brhc k => .brbc 5 k
  | .brts k => .brbs 6 k
  | .brtc k => .brbc 6 k
  | .brvs k => .brbs 3 k
  | .brvc k => .brbc 3 k
  | .brie k => .brbs 7 k
  | .brid k => .brbc 7 k
  | .mov d r => .mov d r
  | .ldi d k => .ldi d k
  | .lds d k => .lds d k
  | .ldX d => .ldX d
  | .ldXInc d => .ldXInc d
  | .ldXDec d => .ldXDec d
  | .ldY d => .ldY d
  | .ldYInc d => .ldYInc d
  | .ldYDec d => .ldYDec d
  | .lddY d q => if q = 0 then .ldY d else .lddY d q
  | .ldZ d => .ldZ d
  | .ldZInc d => .ldZInc d
  | .ldZDec d => .ldZDec d
  | .lddZ d q => if q = 0 then .ldZ d else .lddZ d q
  | .sts k r => .sts k r
  | .stX r => .stX r
  | .stXInc r => .stXInc r
  | .stXDec r => .stXDec r
  | .stY r => .stY r
  | .stYInc r => .stYInc r
  | .stYDec r => .stYDec r
  | .stdY q r => if q = 0 then .stY r else .stdY q r
  | .stZ r => .stZ r
  | .stZInc r => .stZInc r
  | .stZDec r => .stZDec r
  | .stdZ q r => if q = 0 then .stZ r else .stdZ q r
  | .lpm => .lpm
  | .inp d a => .inp d a
  | .out a r => .out a r
  | .push r => .push r
  | .pop d => .pop d
  | .lsl d => .add d d
  | .lsr d => .lsr d
  | .rol d => .adc d d
  | .ror d => .ror d
  | .asr d => .asr d
  | .swap d => .swap d
  | .sbi a b => .sbi a b
  | .cbi a b => .cbi a b
  | .bst r b => .bst r b
  | .bld d b => .bld d b
  | .bset n => .bset n
  | .bclr n => .bclr n
  | .sec => .bset 0
  | .clc => .bclr 0
  | .sen => .bset 2
  | .cln => .bclr 2
  | .sez => .bset 1
  | .clz => .bclr 1
  | .sei => .bset 7
  | .cli => .bclr 7
  | .ses => .bset 4
  | .cls => .bclr 4
  | .sev => .bset 3
  | .clv => .bclr 3
  | .set => .bset 6
  | .clt => .bclr 6
  | .seh => .bset 5
  | .clh => .bclr 5
  | .brk => .brk
  | .nop => .nop
  | .sleep => .sleep
  | .wdr => .wdr

end Sys2Proof
end

