-- ==== Sys2Proof/Config.lean ====
section
/-! DEFINITION. The configuration record of spec/00_scope.md R5, the reference configuration REFCFG, the
constraints between the parameters (spec/92_eei_decisions.md, "Parameters left open"), and the free
values: what the spec says a model must not fix. The record is plain data and a machine holds one
(assumption log 1); `IrqOracle` is the list of platform inputs of `Machine.State` (log 8). -/

namespace Sys2Proof

/-- `SP_BITS`: the width of the stack pointer, 8 or 16 (R5, R29). -/
inductive SpWidth
  | bits8
  | bits16
deriving DecidableEq, Repr

/-- `IoDevice`: who answers the I/O locations that are not SREG, SPL, SPH (R5, R55 to R57).
`plainStorage` is REFCFG; `platform` is a device of unknown behaviour, whose answers are free (log 10) and which may
raise: the accesses it gets are numbered from 0 in the core's order, and the one with the number `raisesAt`, if
there is one, raises, which ends the run (R162, R232, R233, R258; log 33). -/
inductive IoDevice
  | plainStorage
  | platform (raisesAt : Option Nat)
deriving DecidableEq, Repr

/-- `BREAK_MODE` (R5, R290). -/
inductive BreakMode
  | refuse
  | nop
  | stop
deriving DecidableEq, Repr

/-- `SLEEP_MODE` (R5, R292). -/
inductive SleepMode
  | nop
  | hold
deriving DecidableEq, Repr

/-- `SREG_STORE_I_DELAY` (R5, R307). `either`: a proof must hold both ways (log 11). -/
inductive StoreDelay
  | yes
  | no
  | either
deriving DecidableEq, Repr

/-- A range of data-space addresses, first and last included. -/
structure AddrRange where
  first : Nat
  last : Nat
deriving DecidableEq, Repr

/-- The configuration record of R5. `PC_BYTES` is no field: R5 makes it 2 when `PC_BITS <= 16` and
3 otherwise (`Machine.pcBytes`). -/
structure Config where
  /-- `PC_BITS`, 1 to 22. -/
  pcBits : Nat
  /-- `FLASH_WORDS`, at most `2^PC_BITS`. -/
  flashWords : Nat
  /-- `SP_BITS`. -/
  spWidth : SpWidth
  /-- `SP_RESET`: a value, or none for `unspecified`. -/
  spReset : Option Word
  /-- `REGS_IN_DATA_SPACE`. -/
  regsInDataSpace : Bool
  /-- `IO_DATA_BASE`. -/
  ioDataBase : Nat
  /-- `RAM_START`. -/
  ramStart : Nat
  /-- `RAM_END`. -/
  ramEnd : Nat
  /-- `DATA_EXTRA`: the data addresses the platform gives a meaning to; empty for none (log 10). -/
  dataExtra : List AddrRange
  /-- `IO_SREG`. -/
  ioSreg : Nat
  /-- `IO_SPL`. -/
  ioSpl : Nat
  /-- `IO_SPH`. -/
  ioSph : Nat
  /-- `IoDevice`. -/
  ioDevice : IoDevice
  /-- `NUM_VECTORS`, reset (vector 0) included. -/
  numVectors : Nat
  /-- `VECTOR_STRIDE`, words per vector. -/
  vectorStride : Nat
  /-- `SHIFT_WRITES_S`. -/
  shiftWritesS : Bool
  /-- `BREAK_MODE`. -/
  breakMode : BreakMode
  /-- `SLEEP_MODE`. -/
  sleepMode : SleepMode
  /-- `SREG_STORE_I_DELAY`. -/
  sregStoreIDelay : StoreDelay
deriving DecidableEq, Repr

/-- REFCFG, the reference configuration of R5. -/
def Config.refcfg : Config where
  pcBits := 16
  flashWords := 4096
  spWidth := .bits16
  spReset := none
  regsInDataSpace := true
  ioDataBase := 0x0020
  ramStart := 0x0060
  ramEnd := 0x025F
  dataExtra := []
  ioSreg := 0x3F
  ioSpl := 0x3D
  ioSph := 0x3E
  ioDevice := .plainStorage
  numVectors := 1
  vectorStride := 1
  shiftWritesS := true
  breakMode := .refuse
  sleepMode := .hold
  sregStoreIDelay := .either

/-- The constraints the spec puts on the parameters: R5 (`PC_BITS`, `FLASH_WORDS`), R51 (the three
ranges disjoint), R57 (`IO_SREG`, `IO_SPL`, `IO_SPH` in 32 to 63) and the list at the end of
spec/92_eei_decisions.md. -/
abbrev Config.WF (c : Config) : Prop :=
  1 ≤ c.pcBits ∧ c.pcBits ≤ 22 ∧ c.flashWords ≤ 2 ^ c.pcBits ∧
  (c.regsInDataSpace = true → 0x20 ≤ c.ioDataBase) ∧
  c.ioDataBase + 63 < c.ramStart ∧ c.ramEnd < 0x10000 ∧
  32 ≤ c.ioSreg ∧ c.ioSreg ≤ 63 ∧ 32 ≤ c.ioSpl ∧ c.ioSpl ≤ 63 ∧ 32 ≤ c.ioSph ∧ c.ioSph ≤ 63 ∧
  c.ioSreg ≠ c.ioSpl ∧ c.ioSreg ≠ c.ioSph ∧ c.ioSpl ≠ c.ioSph ∧
  1 ≤ c.numVectors ∧ 1 ≤ c.vectorStride ∧ c.vectorStride ≤ 2 ∧
  c.numVectors * c.vectorStride ≤ c.flashWords

/-- A byte the spec leaves free: an unwritten RAM byte (R46, U8 of spec/93), a device's answer (R55), an
answer of `DATA_EXTRA` (R52). Nothing is known of it; the machine applies it to its draw counter,
so that each draw is a fresh one (logs 5 and 10). -/
opaque Config.freeByte : Nat → Byte

/-- A bit the spec leaves free: under `SREG_STORE_I_DELAY = either`, whether a store to SREG that sets I
sets `irq_inhibit` (R307; log 11). -/
opaque Config.freeBit : Nat → Bool

end Sys2Proof
end

