-- ==== Sys2Proof/Machine/Memory.lean ====
section
/-! DEFINITION. Byte memories as lists of cells in one canonical form: addresses strictly rising, and no cell that
holds what an unlisted address reads as. `erased` is what an unlisted address reads as: `none`, no value,
for internal RAM (spec/10_state.md R34, R46), and 0xFF for program memory (log 6). -/

namespace Sys2Proof.Machine

/-- A byte memory: its listed cells, in canonical form `Memory.WF`. -/
abbrev Memory := List Host.Cell

/-- What an unlisted RAM byte reads as: no value (R46; log 5). -/
def ramErased : Option Byte := none

/-- What an unlisted program-memory byte reads as: erased program memory reads 0xFFFF (R291; PRESUMED,
log 6). -/
def flashErased : Option Byte := some 0xFF

/-- The canonical form: addresses strictly rising, no cell equal to what an unlisted address reads as. -/
abbrev Memory.WF (erased : Option Byte) (m : Memory) : Prop :=
  m.Pairwise (fun x y => x.1 < y.1) ∧ ∀ c ∈ m, some c.2 ≠ erased

/-- The byte at address `a`: the listed one, else what an unlisted address reads as. -/
def Memory.get (erased : Option Byte) : Memory → Nat → Option Byte
  | [], _ => erased
  | (b, v) :: rest, a => if a = b then some v else Memory.get erased rest a

/-- A cell in front of a memory, left out where it would hold what an unlisted address reads as. -/
def Memory.consCell (erased : Option Byte) (a : Nat) (v : Byte) (m : Memory) : Memory :=
  if some v = erased then m else (a, v) :: m

/-- Write the byte `v` at address `a`, keeping the canonical form. -/
def Memory.set (erased : Option Byte) : Memory → Nat → Byte → Memory
  | [], a, v => Memory.consCell erased a v []
  | (b, w) :: rest, a, v =>
    if a < b then Memory.consCell erased a v ((b, w) :: rest)
    else if a = b then Memory.consCell erased a v rest
    else (b, w) :: Memory.set erased rest a v

end Sys2Proof.Machine
end

