-- ==== Sys2Proof/Machine/State.lean ====
section
/-! DEFINITION. The machine's state (spec/10_state.md), the faults of spec/60_exceptions.md R300, the refusals, and
the state after reset (R46). INVENTORY.md lists every field with its rule and its reset value. -/

namespace Sys2Proof.Machine

/-- What the core hands to the platform. -/
inductive PlatformEvent
  /-- "watchdog restarted", by WDR (R293). -/
  | wdr
  /-- The interrupt request of this vector was accepted (R308). -/
  | irqAccepted (v : Nat)
  /-- A read of an I/O location of a device (R55). -/
  | ioRead (a : IoAddr)
  /-- A byte written to an I/O location of a device (R56). -/
  | ioWrite (a : IoAddr) (v : Byte)
  /-- One bit written to an I/O location of a device (R57). -/
  | ioBitWrite (a : IoLow) (b : BitNum) (v : Bool)
  /-- A read at an address of `DATA_EXTRA` (R52). -/
  | extraRead (a : Word)
  /-- A byte written at an address of `DATA_EXTRA` (R53). -/
  | extraWrite (a : Word) (v : Byte)
deriving DecidableEq, Repr

/-- The model's fault outcomes (R300), and what a device of the platform raises (log 33). A fault ends the run: it is not vectored, software cannot catch it, and
the faulting instruction changes no state (R11). All of them are safe: the machine stops where a part
does something the spec does not say. -/
inductive Fault
  /-- `IllegalOpcode(pc, w0)`: raised by the fetch of a first word that matches no row (R100), and by a
  skip whose condition holds when the word it must pass is illegal (R184). Safe. -/
  | illegalOpcode (pc : PcWord) (w0 : Word)
  /-- `UndefinedForm(pc, w0)`: raised by a post-increment or pre-decrement load or store that moves a register of
  its own pointer (R204), and by a push onto SP's own I/O location (R54), which PUSH, RCALL, ICALL and
  interrupt entry make; interrupt entry has no word (log 13). Safe. -/
  | undefinedForm (pc : PcWord) (w0 : Option Word)
  /-- `UnmappedAccess(addr)`: raised by a data-space access, also of a push, a pop or interrupt entry, at an
  address the data map gives no meaning to (R51). Safe. -/
  | unmappedAccess (addr : Word)
  /-- `FetchOutOfRange(w)`: raised by a program-memory read at a word address at or above `FLASH_WORDS`: the
  fetch of a first or second word, a skip reading the next word, LPM (R58, R59). Safe. -/
  | fetchOutOfRange (w : PcWord)
  /-- What a device of the platform raises on an access of its I/O location (R162, R232, R233, R258, R259): raised by
  IN, OUT, SBI, CBI, SBIC, SBIS, and by a data-space access routed there, also of a push, a pop or interrupt
  entry (logs 33 and 34). Safe. -/
  | deviceRaised (access : PlatformEvent)
deriving DecidableEq, Repr

/-- What the model declines to give a meaning. -/
inductive Refusal
  /-- An instruction that has no meaning in `exec` yet; raised by its arm of `exec` alone. Safe. No arm of this model
  raises it. -/
  | notModelled (mnemonic : String)
  /-- `Refused(pc, reason)`: BREAK under `BREAK_MODE = refuse`, whose behaviour is in a debug interface description
  the sources do not hold (R290, R300). Safe. -/
  | refused (pc : PcWord) (reason : String)
deriving DecidableEq, Repr

/-- What the platform gives the core at one instruction boundary: whether the reset event arrives (R330), and
the set of vectors whose request is pending and individually enabled, `IrqOracle`'s answer (R305). -/
structure PlatformInput where
  reset : Bool
  requests : List Nat
deriving DecidableEq, Repr

/-- A boundary at which nothing arrives: REFCFG's `IrqOracle` (R5). -/
def PlatformInput.quiet : PlatformInput := { reset := false, requests := [] }

/-- The state of the machine (R20 to R36): plain data. -/
structure State where
  /-- The configuration record (R5), constant for a run (log 1). -/
  cfg : Config
  /-- R0 to R31 (R20). -/
  regs : Vector Byte 32
  /-- The program counter, a word address of `PC_BITS` bits (R24). -/
  pc : PcWord
  /-- SREG, the byte I T H S V N Z C (R26). -/
  sreg : Byte
  /-- The stack pointer, of `SP_BITS` bits (R29). -/
  sp : Word
  /-- Internal RAM, by data-space address (R34). -/
  ram : Memory
  /-- The I/O locations where `IoDevice` is plain storage (R33, R55). -/
  io : Vector Byte 64
  /-- Program memory, by byte address, the low byte of word w at 2w (R31, R65). -/
  flash : Memory
  /-- `irq_inhibit` (R36, R307). -/
  irqInhibit : Bool
  /-- `sleeping` (R36, R292). -/
  sleeping : Bool
  /-- `stopped` (R36, R290). -/
  stopped : Bool
  /-- The platform's answers at the coming instruction boundaries, the next one first; past the end nothing
  arrives (R36 "pending interrupt requests", R305, R330; log 8). -/
  inputs : List PlatformInput
  /-- The events handed to the platform, newest first (R293, R308; log 10). -/
  events : List PlatformEvent
  /-- The model's own: the number of free values drawn so far (logs 5, 10, 11, 29). -/
  draws : Nat
deriving DecidableEq, Repr

/-- The outcome of an instruction or a step. -/
abbrev Result := Host.Outcome State Fault Refusal

/-- SP after reset: `SP_RESET`, and where it is unspecified 0x0000 (R46; DESIGN CHOICE, log 3); it has
`SP_BITS` bits (R29). -/
def resetSp (cfg : Config) : Word :=
  match cfg.spWidth with
  | .bits8 => ((cfg.spReset.getD 0x0000).setWidth 8).setWidth 16
  | .bits16 => cfg.spReset.getD 0x0000

/-- The state after the reset event (R46, R331), for a configuration and a program image, whatever the state was
before; R0 to R31 and the plain I/O locations hold 0x00 (DESIGN CHOICE, logs 2 and 4), RAM holds no
value. What belongs to the platform (`inputs`, `events`) and the draw counter are given (log 9). -/
def State.afterReset (cfg : Config) (flash : Memory) (inputs : List PlatformInput)
    (events : List PlatformEvent) (draws : Nat) : State where
  cfg := cfg
  regs := Vector.replicate 32 0x00
  pc := 0
  sreg := 0x00
  sp := resetSp cfg
  ram := []
  io := Vector.replicate 64 0x00
  flash := flash
  irqInhibit := false
  sleeping := false
  stopped := false
  inputs := inputs
  events := events
  draws := draws

/-- The machine right after reset: REFCFG, no program placed (log 7), a platform that does nothing. -/
def State.reset : State := State.afterReset Config.refcfg [] [] [] 0

end Sys2Proof.Machine
end

