-- ==== Sys2Proof/Machine/Flags.lean ====
section
/-! DEFINITION. SREG and the flag computations: the bits of SREG (spec/10_state.md R26), the flags of an addition
(spec/41_arithmetic_logic.md R111), a subtraction (R112), a logic operation (R113), ADIW and SBIW (R116, R121),
COM, NEG, INC, DEC (R127, R128, R131, R132), and the shifts (spec/44_bit_and_bit_test.md R251). -/

namespace Sys2Proof.Machine

/-- The flags of SREG (R26). -/
inductive Flag
  | c
  | z
  | n
  | v
  | s
  | h
  | t
  | i
deriving DecidableEq, Repr

/-- The bit number of a flag in SREG (R26). -/
def Flag.bit : Flag → BitNum
  | .c => 0
  | .z => 1
  | .n => 2
  | .v => 3
  | .s => 4
  | .h => 5
  | .t => 6
  | .i => 7

/-- Bit `n` of a byte, bit 0 the least significant (R6). -/
def getBit (x : Byte) (n : BitNum) : Bool := x.getLsbD n.val

/-- The byte with bit `n` set to `b` and the other seven bits kept. -/
def putBit (x : Byte) (n : BitNum) (b : Bool) : Byte :=
  if b then x ||| (1#8 <<< n.val) else x &&& ~~~(1#8 <<< n.val)

/-- A flag of an SREG byte. -/
def getFlag (sreg : Byte) (f : Flag) : Bool := getBit sreg f.bit

/-- An SREG byte with one flag written. -/
def putFlag (sreg : Byte) (f : Flag) (b : Bool) : Byte := putBit sreg f.bit b

/-- The five flags an arithmetic instruction computes on their own; S is always N xor V with the new N and
V (R111, R112, R251). -/
structure ArithFlags where
  h : Bool
  v : Bool
  n : Bool
  z : Bool
  c : Bool
deriving DecidableEq, Repr

/-- S, the signed test flag: N xor V (R111 to R113). -/
def ArithFlags.s (f : ArithFlags) : Bool := f.n ^^ f.v

/-- Write N, V, Z and S. -/
def putNVZS (sreg : Byte) (f : ArithFlags) : Byte :=
  putFlag (putFlag (putFlag (putFlag sreg .n f.n) .v f.v) .z f.z) .s f.s

/-- Write C, N, V, Z and S. -/
def putCNVZS (sreg : Byte) (f : ArithFlags) : Byte := putFlag (putNVZS sreg f) .c f.c

/-- Write H, C, N, V, Z and S. -/
def putHCNVZS (sreg : Byte) (f : ArithFlags) : Byte := putFlag (putCNVZS sreg f) .h f.h

/-- A carry or borrow as an 8-bit number. -/
def carryByte (b : Bool) : Byte := if b then 1 else 0

/-- The result of an 8-bit addition with carry in, modulo 256 (R110, R111). -/
def addResult (a b : Byte) (cin : Bool) : Byte := a + b + carryByte cin

/-- The carry out of bit `k` of an addition, from the bits of the operands and the result (R111). -/
def addCarryAt (k : BitNum) (a b r : Byte) : Bool :=
  getBit a k && getBit b k || getBit b k && !getBit r k || !getBit r k && getBit a k

/-- R111: the flags of an 8-bit addition. -/
def addFlags (a b : Byte) (cin : Bool) : ArithFlags :=
  let r := addResult a b cin
  { h := addCarryAt 3 a b r
    v := getBit a 7 && getBit b 7 && !getBit r 7 || !getBit a 7 && !getBit b 7 && getBit r 7
    n := getBit r 7
    z := r == 0x00
    c := addCarryAt 7 a b r }

/-- The result of an 8-bit subtraction with borrow in, modulo 256 (R110, R112). -/
def subResult (a b : Byte) (bin : Bool) : Byte := a - b - carryByte bin

/-- The borrow into bit `k` of a subtraction, from the bits of the operands and the result (R112). -/
def subBorrowAt (k : BitNum) (a b r : Byte) : Bool :=
  !getBit a k && getBit b k || getBit b k && getBit r k || getBit r k && !getBit a k

/-- R112: the flags of an 8-bit subtraction, Z from the result alone (SUB, SUBI, CP, CPI). -/
def subFlags (a b : Byte) (bin : Bool) : ArithFlags :=
  let r := subResult a b bin
  { h := subBorrowAt 3 a b r
    v := getBit a 7 && !getBit b 7 && !getBit r 7 || !getBit a 7 && getBit b 7 && getBit r 7
    n := getBit r 7
    z := r == 0x00
    c := subBorrowAt 7 a b r }

/-- R112: the flags of a subtraction with carry (SBC, SBCI, CPC): Z is the result zero and the old Z. -/
def subCarryFlags (a b : Byte) (bin zOld : Bool) : ArithFlags :=
  { subFlags a b bin with z := (subFlags a b bin).z && zOld }

/-- R113: the flags of a logic operation with result `r`; V is cleared. C and H are not written by it: the fields
hold false, and `putNVZS` leaves those two bits of SREG alone. -/
def logicFlags (r : Byte) : ArithFlags :=
  { h := false, v := false, n := getBit r 7, z := r == 0x00, c := false }

/-- R127: the flags of COM with result `r`: those of a logic operation, and C set. -/
def comFlags (r : Byte) : ArithFlags := { logicFlags r with c := true }

/-- R128: the flags of NEG, with operand `a` and result `r`. -/
def negFlags (a r : Byte) : ArithFlags :=
  { h := getBit r 3 || getBit a 3
    v := r == 0x80
    n := getBit r 7
    z := r == 0x00
    c := r != 0x00 }

/-- R131: the flags of INC with result `r`. -/
def incFlags (r : Byte) : ArithFlags := { logicFlags r with v := r == 0x80 }

/-- R132: the flags of DEC with result `r`. -/
def decFlags (r : Byte) : ArithFlags := { logicFlags r with v := r == 0x7F }

/-- R116: the flags of ADIW, from the pair before (`w`) and after (`r`). H is not written. -/
def adiwFlags (w r : Word) : ArithFlags :=
  { h := false
    v := !w.getLsbD 15 && r.getLsbD 15
    n := r.getLsbD 15
    z := r == 0x0000
    c := !r.getLsbD 15 && w.getLsbD 15 }

/-- R121: the flags of SBIW, from the pair before (`w`) and after (`r`). H is not written. -/
def sbiwFlags (w r : Word) : ArithFlags :=
  { h := false
    v := w.getLsbD 15 && !r.getLsbD 15
    n := r.getLsbD 15
    z := r == 0x0000
    c := r.getLsbD 15 && !w.getLsbD 15 }

/-- R251: the flags of LSL and ROL, from the operand `a` and the result `r`: C is the bit shifted out, H the
old bit 3, V is N xor C after the shift. -/
def shiftLeftFlags (a r : Byte) : ArithFlags :=
  { h := getBit a 3
    v := getBit r 7 ^^ getBit a 7
    n := getBit r 7
    z := r == 0x00
    c := getBit a 7 }

/-- R251: the flags of LSR, ROR and ASR, from the operand `a` and the result `r`. H is not written. -/
def shiftRightFlags (a r : Byte) : ArithFlags :=
  { h := false
    v := getBit r 7 ^^ getBit a 0
    n := getBit r 7
    z := r == 0x00
    c := getBit a 0 }

/-- R251: SREG after LSR, ROR or ASR: C, Z, N, V are written, and S if `SHIFT_WRITES_S`. -/
def putShiftRight (writesS : Bool) (sreg : Byte) (f : ArithFlags) : Byte :=
  if writesS then putCNVZS sreg f
  else putFlag (putFlag (putFlag (putFlag sreg .n f.n) .v f.v) .z f.z) .c f.c

end Sys2Proof.Machine
end

