-- ==== Sys2Proof/Machine/Ops.lean ====
section
/-! DEFINITION. The named operations over registers, program counter, program memory, data space, I/O space and
stack (spec/20_memory.md), and taking an interrupt and returning from one (spec/60_exceptions.md R308,
spec/42_branch.md R155). An operation that can fault answers an error and no state (R11). -/

namespace Sys2Proof.Machine

/-! ## General registers, pairs and flags -/

/-- The content of a general register (R20). -/
def State.reg (s : State) (i : Reg) : Byte := s.regs[i.val]

/-- Write a general register; no register is hardwired (R21). -/
def State.setReg (s : State) (i : Reg) (v : Byte) : State := { s with regs := s.regs.set i.val v }

/-- The register after `i`, the high one of a pair (R9). -/
def nextReg (i : Reg) : Reg := i + 1

/-- `pair(i)`: register i+1 high, register i low (R9, R22). -/
def State.pair (s : State) (i : Reg) : Word := wordOfBytes (s.reg i) (s.reg (nextReg i))

/-- Write a register pair: the low byte to register i, the high byte to register i+1 (R9). -/
def State.setPair (s : State) (i : Reg) (v : Word) : State :=
  (s.setReg i (lowByte v)).setReg (nextReg i) (highByte v)

/-- A flag of SREG (R26). -/
def State.flag (s : State) (f : Flag) : Bool := getFlag s.sreg f

/-- Write one flag of SREG, keeping the others. -/
def State.setFlag (s : State) (f : Flag) (b : Bool) : State := { s with sreg := putFlag s.sreg f b }

/-! ## Program counter (R24, R25) -/

/-- A program address, reduced modulo `2^PC_BITS` (R9, R25). -/
def truncPc (cfg : Config) (z : Int) : PcWord := BitVec.ofInt 22 (z % (2 ^ cfg.pcBits : Nat))

/-- The address `n` words after the current instruction (R25). -/
def State.pcAfter (s : State) (n : Nat) : PcWord := truncPc s.cfg (s.pc.toNat + n)

/-- Move the program counter `n` words on (R13, R25). -/
def State.advance (s : State) (n : Nat) : State := { s with pc := s.pcAfter n }

/-- R185: the target of a relative jump with the signed word offset `k`. -/
def State.relTarget (s : State) (k : Int) : PcWord := truncPc s.cfg (s.pc.toNat + 1 + k)

/-- The end of an instruction's rule: the next state or the fault. -/
def conclude : Except Fault State → Result
  | .ok s => .next s
  | .error f => .fault f

/-! ## Program memory (R58, R59) -/

/-- A program-memory byte by byte address. -/
def State.flashByte (s : State) (a : Nat) : Byte := (s.flash.get flashErased a).getD 0xFF

/-- R58: `ProgWord(w)`. -/
def progWord (s : State) (w : PcWord) : Except Fault Word :=
  if w.toNat < s.cfg.flashWords then
    .ok (wordOfBytes (s.flashByte (2 * w.toNat)) (s.flashByte (2 * w.toNat + 1)))
  else .error (.fetchOutOfRange w)

/-- R59: `ProgByte(a)`: the word `a[15:1]`, its low byte when `a[0] = 0`, its high byte when `a[0] = 1`. -/
def progByte (s : State) (a : Word) : Except Fault Byte :=
  match progWord s ((a.extractLsb' 1 15).setWidth 22) with
  | .ok p => .ok (if a.getLsbD 0 then highByte p else lowByte p)
  | .error f => .error f

/-! ## The I/O space (R55, R56, R57) -/

/-- What an I/O location is: one of the core's three registers, or a location of `IoDevice` (R33). -/
inductive IoPlace
  | sreg
  | spl
  | sph
  | device
deriving DecidableEq, Repr

/-- R55, R56: what the I/O location `a` is. -/
def ioPlace (cfg : Config) (a : IoAddr) : IoPlace :=
  if a.val = cfg.ioSreg then .sreg
  else if a.val = cfg.ioSpl then .spl
  else if a.val = cfg.ioSph then .sph
  else .device

/-- `SP[15:8]`, which reads 0 when `SP_BITS` is 8 (R30, R55). -/
def State.spHigh (s : State) : Byte :=
  match s.cfg.spWidth with
  | .bits8 => 0
  | .bits16 => highByte s.sp

/-- Write `SP[7:0]` (R56). -/
def State.setSpLow (s : State) (v : Byte) : State := { s with sp := wordOfBytes v (highByte s.sp) }

/-- Write `SP[15:8]`; ignored when `SP_BITS` is 8 (R30, R56). -/
def State.setSpHigh (s : State) (v : Byte) : State :=
  match s.cfg.spWidth with
  | .bits8 => s
  | .bits16 => { s with sp := wordOfBytes (lowByte s.sp) v }

/-- Hand an event to the platform. -/
def State.emit (s : State) (e : PlatformEvent) : State := { s with events := e :: s.events }

/-- The next free byte (logs 5 and 10). -/
def State.drawn (s : State) : Byte := Config.freeByte s.draws

/-- The state after a free value was drawn. -/
def State.afterDraw (s : State) : State := { s with draws := s.draws + 1 }

/-- Whether an event is an access of an I/O location of the device. -/
def PlatformEvent.isDeviceAccess : PlatformEvent → Bool
  | .wdr => false
  | .irqAccepted _ => false
  | .ioRead _ => true
  | .ioWrite _ _ => true
  | .ioBitWrite _ _ _ => true
  | .extraRead _ => false
  | .extraWrite _ _ => false

/-- Whether an access of the I/O location `a` raises, after the platform was handed `events`: it is the device's, and
the number of the device's accesses so far is the one at which it raises (log 33). -/
def deviceRaises (cfg : Config) (events : List PlatformEvent) (a : IoAddr) : Bool :=
  match ioPlace cfg a, cfg.ioDevice with
  | .device, .platform (some n) => events.countP PlatformEvent.isDeviceAccess == n
  | _, _ => false

/-- What a read of an I/O location that raises nothing answers (R55). A device's answer is free (log 10). -/
def ioAnswer (a : IoAddr) (s : State) : Byte × State :=
  match ioPlace s.cfg a with
  | .sreg => (s.sreg, s)
  | .spl => (lowByte s.sp, s)
  | .sph => (s.spHigh, s)
  | .device =>
    match s.cfg.ioDevice with
    | .plainStorage => (s.io[a.val], s)
    | .platform _ => (s.drawn, (s.emit (.ioRead a)).afterDraw)

/-- R55: `IoRead(A)`: the answer, or what the device raises (R232). -/
def ioRead (a : IoAddr) (s : State) : Except Fault (Byte × State) :=
  if deviceRaises s.cfg s.events a then .error (.deviceRaised (.ioRead a)) else .ok (ioAnswer a s)

/-- R56, R307: SREG written as a byte. When this changes I from 0 to 1, `irq_inhibit` is set, left alone, or
either, by `SREG_STORE_I_DELAY`; `either` is a free bit (log 11). -/
def writeSreg (v : Byte) (s : State) : State :=
  if !s.flag .i && getFlag v .i then
    match s.cfg.sregStoreIDelay with
    | .yes => { s with sreg := v, irqInhibit := true }
    | .no => { s with sreg := v }
    | .either => { s with sreg := v, irqInhibit := s.irqInhibit || Config.freeBit s.draws, draws := s.draws + 1 }
  else { s with sreg := v }

/-- What a write of an I/O location that raises nothing does (R56). -/
def ioStore (a : IoAddr) (v : Byte) (s : State) : State :=
  match ioPlace s.cfg a with
  | .sreg => writeSreg v s
  | .spl => s.setSpLow v
  | .sph => s.setSpHigh v
  | .device =>
    match s.cfg.ioDevice with
    | .plainStorage => { s with io := s.io.set a.val v }
    | .platform _ => s.emit (.ioWrite a v)

/-- R56: `IoWrite(A, v)`: the write, or what the device raises (R233). -/
def ioWrite (a : IoAddr) (v : Byte) (s : State) : Except Fault State :=
  if deviceRaises s.cfg s.events a then .error (.deviceRaised (.ioWrite a v)) else .ok (ioStore a v s)

/-- One of the low 32 I/O locations as a location of the whole space. -/
def ioOfLow (a : IoLow) : IoAddr := ⟨a.val, Nat.lt_of_lt_of_le a.isLt (by decide)⟩

/-- What a bit write that raises nothing does (R57): for plain storage the read-modify-write of the byte; a device of
the platform is handed the one bit. (A configuration keeps SREG and SP out of 0 to 31; were one of them there,
the byte would be read, changed and written back: log 32.) -/
def ioBitStore (a : IoLow) (b : BitNum) (v : Bool) (s : State) : State :=
  match ioPlace s.cfg (ioOfLow a), s.cfg.ioDevice with
  | .device, .platform _ => s.emit (.ioBitWrite a b v)
  | _, _ =>
    let t := ioAnswer (ioOfLow a) s
    ioStore (ioOfLow a) (putBit t.1 b v) t.2

/-- R57: `IoBitWrite(A, b, v)`: the bit write, or what the device raises (R258, R259). -/
def ioBitWrite (a : IoLow) (b : BitNum) (v : Bool) (s : State) : Except Fault State :=
  if deviceRaises s.cfg s.events (ioOfLow a) then .error (.deviceRaised (.ioBitWrite a b v))
  else .ok (ioBitStore a b v s)

/-! ## The data space (R51, R52, R53) -/

/-- Where a data-space address leads. -/
inductive Place
  | reg (i : Reg)
  | io (a : IoAddr)
  | ram
  | extra
  | unmapped
deriving DecidableEq, Repr

/-- Whether a range of addresses holds `a`. -/
def rangeHolds (r : AddrRange) (a : Nat) : Bool := decide (r.first ≤ a ∧ a ≤ r.last)

/-- R51: the routing of a data-space address, tested in the spec's order. -/
def route (cfg : Config) (a : Word) : Place :=
  if hr : cfg.regsInDataSpace = true ∧ a.toNat < 32 then .reg ⟨a.toNat, hr.2⟩
  else if hi : cfg.ioDataBase ≤ a.toNat ∧ a.toNat < cfg.ioDataBase + 64 then
    .io ⟨a.toNat - cfg.ioDataBase, by omega⟩
  else if cfg.ramStart ≤ a.toNat ∧ a.toNat ≤ cfg.ramEnd then .ram
  else if cfg.dataExtra.any (rangeHolds · a.toNat) then .extra
  else .unmapped

/-- The byte of internal RAM at an address, where it has been written (R34). -/
def State.ramByte (s : State) (a : Nat) : Option Byte := s.ram.get ramErased a

/-- R52: `MemRead(a, 1)`. A RAM byte nothing has written draws a fresh free byte (log 5), and so does an answer of
`DATA_EXTRA` (log 10). -/
def memRead (a : Word) (s : State) : Except Fault (Byte × State) :=
  match route s.cfg a with
  | .reg i => .ok (s.reg i, s)
  | .io p => ioRead p s
  | .ram =>
    match s.ramByte a.toNat with
    | some v => .ok (v, s)
    | none => .ok (s.drawn, s.afterDraw)
  | .extra => .ok (s.drawn, (s.emit (.extraRead a)).afterDraw)
  | .unmapped => .error (.unmappedAccess a)

/-- R53: `MemWrite(a, 1, v)`. -/
def memWrite (a : Word) (v : Byte) (s : State) : Except Fault State :=
  match route s.cfg a with
  | .reg i => .ok (s.setReg i v)
  | .io p => ioWrite p v s
  | .ram => .ok { s with ram := s.ram.set ramErased a.toNat v }
  | .extra => .ok (s.emit (.extraWrite a v))
  | .unmapped => .error (.unmappedAccess a)

/-! ## The stack (R60 to R64) -/

/-- SP moved by `k`, modulo `2^SP_BITS` (R61, R62). -/
def moveSp (cfg : Config) (sp k : Word) : Word :=
  match cfg.spWidth with
  | .bits8 => (lowByte (sp + k)).setWidth 16
  | .bits16 => sp + k

/-- R54: whether a data address is the one of SP's own I/O locations. -/
def isSpLocation (cfg : Config) (a : Word) : Bool :=
  a.toNat == cfg.ioDataBase + cfg.ioSpl || a.toNat == cfg.ioDataBase + cfg.ioSph

/-- R61: `Push(v)`, for the instruction whose first word is `w0` (none for interrupt entry). -/
def push (w0 : Option Word) (v : Byte) (s : State) : Except Fault State :=
  if isSpLocation s.cfg s.sp then .error (.undefinedForm s.pc w0)
  else
    match memWrite s.sp v s with
    | .ok s1 => .ok { s1 with sp := moveSp s1.cfg s1.sp (-1) }
    | .error f => .error f

/-- R62: `Pop()`. -/
def pop (s : State) : Except Fault (Byte × State) :=
  let s1 := { s with sp := moveSp s.cfg s.sp 1 }
  memRead s1.sp s1

/-- `PC_BYTES`: the bytes of a return address (R5). -/
def pcBytes (cfg : Config) : Nat := if cfg.pcBits ≤ 16 then 2 else 3

/-- The bytes of a return address in the order they are pushed, least significant first (R63). -/
def returnBytes (cfg : Config) (w : PcWord) : List Byte :=
  [w.extractLsb' 0 8, w.extractLsb' 8 8, (w.extractLsb' 16 6).setWidth 8].take (pcBytes cfg)

/-- Push bytes one after the other. -/
def pushAll (w0 : Option Word) : List Byte → State → Except Fault State
  | [], s => .ok s
  | v :: rest, s =>
    match push w0 v s with
    | .ok s1 => pushAll w0 rest s1
    | .error f => .error f

/-- Whether one of the next `n` pushes would land on SP's own I/O location (R54). -/
def pushHitsSp (cfg : Config) : Nat → Word → Bool
  | 0, _ => false
  | n + 1, sp => isSpLocation cfg sp || pushHitsSp cfg n (moveSp cfg sp (-1))

/-- R63: `PushPc(w)`. `UndefinedForm` comes before any `UnmappedAccess` of the same instruction (R301; log 14). -/
def pushPc (w0 : Option Word) (w : PcWord) (s : State) : Except Fault State :=
  if pushHitsSp s.cfg (pcBytes s.cfg) s.sp then .error (.undefinedForm s.pc w0)
  else pushAll w0 (returnBytes s.cfg w) s

/-- Pop `n` bytes, each below the ones already popped: the value grows from its most significant byte (R64). -/
def popAll : Nat → Nat → State → Except Fault (Nat × State)
  | 0, acc, s => .ok (acc, s)
  | n + 1, acc, s =>
    match pop s with
    | .ok (b, s1) => popAll n (acc * 256 + b.toNat) s1
    | .error f => .error f

/-- R64: `PopPc()`: the bits at and above `PC_BITS` are dropped. -/
def popPc (s : State) : Except Fault (PcWord × State) :=
  match popAll (pcBytes s.cfg) 0 s with
  | .ok (n, s1) => .ok (truncPc s.cfg n, s1)
  | .error f => .error f

/-! ## Interrupt entry and return (R308, R155) -/

/-- R308: interrupt entry for vector `v`: push the address of the next instruction, clear I, wake, go to word
`v * VECTOR_STRIDE`, and tell the platform that the request was accepted. -/
def takeInterrupt (v : Nat) (s : State) : Except Fault State :=
  match pushPc none s.pc s with
  | .ok s1 =>
    .ok { s1.setFlag .i false with
          sleeping := false
          pc := truncPc s1.cfg ((v * s1.cfg.vectorStride : Nat) : Int)
          events := .irqAccepted v :: s1.events }
  | .error f => .error f

/-- R154: the return from a subroutine. -/
def returnFromCall (s : State) : Except Fault State :=
  match popPc s with
  | .ok (w, s1) => .ok { s1 with pc := w }
  | .error f => .error f

/-- R155, R311: the return from an interrupt: the return address is popped, I is set, and `irq_inhibit` is
set; nothing else is restored. -/
def returnFromInterrupt (s : State) : Except Fault State :=
  match returnFromCall s with
  | .ok s1 => .ok { s1.setFlag .i true with irqInhibit := true }
  | .error f => .error f

/-- R330, R46: the reset event, whatever the state was before; the program memory, the configuration and what
belongs to the platform stay (log 9). -/
def takeReset (s : State) : State := State.afterReset s.cfg s.flash s.inputs s.events s.draws

end Sys2Proof.Machine
end

