-- ==== Sys2Proof/Machine/Operands.lean ====
section
/-! DEFINITION. The operand forms: the pointers X, Y, Z and the indirect addressing forms (spec/43_data_transfer.md
R201 to R204), the loads and stores over them, the skip (spec/42_branch.md R184), the conditional branch
(R185), and the register forms the arithmetic families share. -/

namespace Sys2Proof.Machine

/-! ## Pointers and addresses (R22, R201 to R203) -/

/-- The pointer registers (R22). -/
inductive Pointer
  | x
  | y
  | z
deriving DecidableEq, Repr

/-- The register that holds a pointer's low byte: 26, 28, 30; the next one holds the high byte (R22). -/
def Pointer.low : Pointer → Reg
  | .x => 26
  | .y => 28
  | .z => 30

/-- The content of a pointer (R22). -/
def State.pointer (s : State) (p : Pointer) : Word := s.pair p.low

/-- Write a pointer, both registers of the pair (R22). -/
def State.setPointer (s : State) (p : Pointer) (v : Word) : State := s.setPair p.low v

/-- The two forms that move their pointer (R201). -/
inductive PointerMove
  | postIncrement
  | preDecrement
deriving DecidableEq, Repr

/-- The address a moving form accesses: the old pointer, or the decremented one; it wraps (R201, R202). -/
def PointerMove.address : PointerMove → Word → Word
  | .postIncrement, p => p
  | .preDecrement, p => p - 1

/-- The pointer after a moving form (R201, R202). -/
def PointerMove.after : PointerMove → Word → Word
  | .postIncrement, p => p + 1
  | .preDecrement, p => p - 1

/-- Whether a register is one of the two of a pointer. -/
def Pointer.holds (p : Pointer) (r : Reg) : Bool := r == p.low || r == nextReg p.low

/-- R204: whether a moving form is undefined: (a) its data register is one of its own pointer's, or (b) its
address is the data address of one of them. -/
def isUndefinedForm (cfg : Config) (p : Pointer) (r : Reg) (a : Word) : Bool :=
  p.holds r || cfg.regsInDataSpace && (a.toNat == p.low.val || a.toNat == p.low.val + 1)

/-- The address of a displaced form, modulo 65536 (R202, R203). -/
def State.displaced (s : State) (p : Pointer) (q : BitVec 6) : Word := s.pointer p + q.setWidth 16

/-! ## Loads and stores (R200 to R204) -/

/-- Load the byte at a data address into a register. -/
def loadFrom (a : Word) (d : Reg) (s : State) : Except Fault State :=
  match memRead a s with
  | .ok (v, s1) => .ok (s1.setReg d v)
  | .error f => .error f

/-- Store a register at a data address. -/
def storeTo (a : Word) (r : Reg) (s : State) : Except Fault State := memWrite a (s.reg r) s

/-- R201, R204: a load that moves its pointer; `w0` is the instruction's word. -/
def loadMoving (m : PointerMove) (p : Pointer) (d : Reg) (w0 : Word) (s : State) : Except Fault State :=
  let a := m.address (s.pointer p)
  if isUndefinedForm s.cfg p d a then .error (.undefinedForm s.pc (some w0))
  else
    match loadFrom a d s with
    | .ok s1 => .ok (s1.setPointer p (m.after (s.pointer p)))
    | .error f => .error f

/-- R201, R204: a store that moves its pointer; `w0` is the instruction's word. -/
def storeMoving (m : PointerMove) (p : Pointer) (r : Reg) (w0 : Word) (s : State) : Except Fault State :=
  let a := m.address (s.pointer p)
  if isUndefinedForm s.cfg p r a then .error (.undefinedForm s.pc (some w0))
  else
    match storeTo a r s with
    | .ok s1 => .ok (s1.setPointer p (m.after (s.pointer p)))
    | .error f => .error f

/-- The end of an instruction of `n` words that does not write the program counter (R13, R25). -/
def concludeAfter (n : Nat) : Except Fault State → Result
  | .ok s => .next (s.advance n)
  | .error f => .fault f

/-! ## Skips and branches (R184, R185) -/

/-- R184: pass over the next instruction when the condition holds. The word looked at is the next one; when it
is no legal first word its length is unknown. -/
def skipIf (cond : Bool) (s : State) : Except Fault State :=
  if cond then
    match progWord s (s.pcAfter 1) with
    | .ok w1 =>
      if isLegalWord w1 then .ok (s.advance (if isTwoWord w1 then 3 else 2))
      else .error (.illegalOpcode (s.pcAfter 1) w1)
    | .error f => .error f
  else .ok (s.advance 1)

/-- R185: a conditional branch; `k` is its signed word offset. -/
def branchIf (cond : Bool) (k : BitVec 7) (s : State) : State :=
  if cond then { s with pc := s.relTarget k.toInt } else s.advance 1

/-- The target of IJMP and ICALL: Z, with the bits above 15, if any, zero (R151, R153). -/
def State.indirectTarget (s : State) : PcWord := truncPc s.cfg ((s.pointer .z).toNat : Int)

/-- A call: the address of the next instruction is pushed, then control goes to `target` (R152, R153). -/
def callTo (w0 : Word) (target : PcWord) (s : State) : Except Fault State :=
  match pushPc (some w0) (s.pcAfter 1) s with
  | .ok s1 => .ok { s1 with pc := target }
  | .error f => .error f

/-! ## Register forms of the arithmetic and bit instructions -/

/-- Write a result and SREG, and go to the next word: the end of an arithmetic instruction (R110). -/
def State.writeResult (s : State) (d : Reg) (r : Byte) (sreg : Byte) : State :=
  { s.setReg d r with sreg := sreg }.advance 1

/-- Write a 16-bit result to a pair and SREG, and go to the next word (R116, R121). -/
def State.writePairResult (s : State) (d : Reg) (r : Word) (sreg : Byte) : State :=
  { s.setPair d r with sreg := sreg }.advance 1

/-- Write SREG only, and go to the next word: a compare, BST, BSET, BCLR. -/
def State.writeFlags (s : State) (sreg : Byte) : State := { s with sreg := sreg }.advance 1

/-- `Rd <- Rd + b + cin` with the flags of R111. -/
def addInto (d : Reg) (b : Byte) (cin : Bool) (s : State) : State :=
  s.writeResult d (addResult (s.reg d) b cin) (putHCNVZS s.sreg (addFlags (s.reg d) b cin))

/-- `Rd <- Rd - b` with the flags of R112. -/
def subInto (d : Reg) (b : Byte) (s : State) : State :=
  s.writeResult d (subResult (s.reg d) b false) (putHCNVZS s.sreg (subFlags (s.reg d) b false))

/-- `Rd <- Rd - b - C` with the flags of R112 and its sticky Z. -/
def subCarryInto (d : Reg) (b : Byte) (s : State) : State :=
  s.writeResult d (subResult (s.reg d) b (s.flag .c))
    (putHCNVZS s.sreg (subCarryFlags (s.reg d) b (s.flag .c) (s.flag .z)))

/-- `Rd - b`, flags only (R157, R159). -/
def compareWith (d : Reg) (b : Byte) (s : State) : State :=
  s.writeFlags (putHCNVZS s.sreg (subFlags (s.reg d) b false))

/-- `Rd <- r` with the flags of a logic operation (R113). -/
def logicInto (d : Reg) (r : Byte) (s : State) : State :=
  s.writeResult d r (putNVZS s.sreg (logicFlags r))

/-- The result of a left shift with `b` shifted in at bit 0 (R250). -/
def shiftLeftResult (a : Byte) (b : Bool) : Byte := putBit (a <<< 1) 0 b

/-- The result of a right shift with `b` shifted in at bit 7 (R250). -/
def shiftRightResult (a : Byte) (b : Bool) : Byte := putBit (a >>> 1) 7 b

/-- A left shift with the flags of R251. -/
def shiftLeftInto (d : Reg) (b : Bool) (s : State) : State :=
  let r := shiftLeftResult (s.reg d) b
  s.writeResult d r (putHCNVZS s.sreg (shiftLeftFlags (s.reg d) r))

/-- A right shift with the flags of R251. -/
def shiftRightInto (d : Reg) (b : Bool) (s : State) : State :=
  let r := shiftRightResult (s.reg d) b
  s.writeResult d r (putShiftRight s.cfg.shiftWritesS s.sreg (shiftRightFlags (s.reg d) r))

/-- `SREG[n] <- 1`; for n = 7 it is SEI and sets `irq_inhibit` too (R262, R270, R307). -/
def setSregBit (n : BitNum) (s : State) : State :=
  { s.writeFlags (putBit s.sreg n true) with irqInhibit := s.irqInhibit || n == Flag.bit .i }

/-- `SREG[n] <- 0` (R263, R271). -/
def clearSregBit (n : BitNum) (s : State) : State := s.writeFlags (putBit s.sreg n false)

end Sys2Proof.Machine
end

