-- ==== Sys2Proof/Machine/Arithmetic.lean ====
section
/-! DEFINITION. The meanings of the arithmetic and logic instructions, Table 1 of the source (spec/41_arithmetic_logic.md). -/

namespace Sys2Proof.Machine

/-- R114: `ADD Rd, Rr`. -/
def execAdd (d r : Reg) (s : State) : Result := .next (addInto d (s.reg r) false s)

/-- R115: `ADC Rd, Rr`. -/
def execAdc (d r : Reg) (s : State) : Result := .next (addInto d (s.reg r) (s.flag .c) s)

/-- R116: `ADIW Rd, K`. -/
def execAdiw (d : Reg) (k : BitVec 6) (s : State) : Result :=
  let w := s.pair d
  let v := w + k.setWidth 16
  .next (s.writePairResult d v (putCNVZS s.sreg (adiwFlags w v)))

/-- R117: `SUB Rd, Rr`. -/
def execSub (d r : Reg) (s : State) : Result := .next (subInto d (s.reg r) s)

/-- R118: `SUBI Rd, K`. -/
def execSubi (d : Reg) (k : Byte) (s : State) : Result := .next (subInto d k s)

/-- R119: `SBC Rd, Rr`. -/
def execSbc (d r : Reg) (s : State) : Result := .next (subCarryInto d (s.reg r) s)

/-- R120: `SBCI Rd, K`. -/
def execSbci (d : Reg) (k : Byte) (s : State) : Result := .next (subCarryInto d k s)

/-- R121: `SBIW Rd, K`. -/
def execSbiw (d : Reg) (k : BitVec 6) (s : State) : Result :=
  let w := s.pair d
  let v := w - k.setWidth 16
  .next (s.writePairResult d v (putCNVZS s.sreg (sbiwFlags w v)))

/-- R122: `AND Rd, Rr`. -/
def execAnd (d r : Reg) (s : State) : Result := .next (logicInto d (s.reg d &&& s.reg r) s)

/-- R123: `ANDI Rd, K`. -/
def execAndi (d : Reg) (k : Byte) (s : State) : Result := .next (logicInto d (s.reg d &&& k) s)

/-- R124: `OR Rd, Rr`. -/
def execOr (d r : Reg) (s : State) : Result := .next (logicInto d (s.reg d ||| s.reg r) s)

/-- R125: `ORI Rd, K`. -/
def execOri (d : Reg) (k : Byte) (s : State) : Result := .next (logicInto d (s.reg d ||| k) s)

/-- R126: `EOR Rd, Rr`. -/
def execEor (d r : Reg) (s : State) : Result := .next (logicInto d (s.reg d ^^^ s.reg r) s)

/-- R127: `COM Rd`. -/
def execCom (d : Reg) (s : State) : Result :=
  let v := 0xFF - s.reg d
  .next (s.writeResult d v (putCNVZS s.sreg (comFlags v)))

/-- R128: `NEG Rd`. -/
def execNeg (d : Reg) (s : State) : Result :=
  let v := 0x00 - s.reg d
  .next (s.writeResult d v (putHCNVZS s.sreg (negFlags (s.reg d) v)))

/-- R129: `SBR Rd, K`. -/
def execSbr (d : Reg) (k : Byte) (s : State) : Result := .next (logicInto d (s.reg d ||| k) s)

/-- R130: `CBR Rd, K`. -/
def execCbr (d : Reg) (k : Byte) (s : State) : Result := .next (logicInto d (s.reg d &&& (0xFF - k)) s)

/-- R131: `INC Rd`. -/
def execInc (d : Reg) (s : State) : Result :=
  let v := s.reg d + 1
  .next (s.writeResult d v (putNVZS s.sreg (incFlags v)))

/-- R132: `DEC Rd`. -/
def execDec (d : Reg) (s : State) : Result :=
  let v := s.reg d - 1
  .next (s.writeResult d v (putNVZS s.sreg (decFlags v)))

/-- R133: `TST Rd`. -/
def execTst (d : Reg) (s : State) : Result := .next (logicInto d (s.reg d &&& s.reg d) s)

/-- R134: `CLR Rd`. -/
def execClr (d : Reg) (s : State) : Result := .next (logicInto d (s.reg d ^^^ s.reg d) s)

/-- R135: `SER Rd`. -/
def execSer (d : Reg) (s : State) : Result := .next ((s.setReg d 0xFF).advance 1)

end Sys2Proof.Machine
end

