-- ==== Sys2Proof/Machine/BitTest.lean ====
section
/-! DEFINITION. The meanings of the bit and bit-test instructions, Table 4 of the source (spec/44_bit_and_bit_test.md). -/

namespace Sys2Proof.Machine

/-- R252: `LSL Rd`. -/
def execLsl (d : Reg) (s : State) : Result := .next (shiftLeftInto d false s)

/-- R253: `LSR Rd`. -/
def execLsr (d : Reg) (s : State) : Result := .next (shiftRightInto d false s)

/-- R254: `ROL Rd`. -/
def execRol (d : Reg) (s : State) : Result := .next (shiftLeftInto d (s.flag .c) s)

/-- R255: `ROR Rd`. -/
def execRor (d : Reg) (s : State) : Result := .next (shiftRightInto d (s.flag .c) s)

/-- R256: `ASR Rd`; bit 7 keeps its value. -/
def execAsr (d : Reg) (s : State) : Result := .next (shiftRightInto d (getBit (s.reg d) 7) s)

/-- R257: `SWAP Rd`. -/
def execSwap (d : Reg) (s : State) : Result :=
  let v := s.reg d
  .next ((s.setReg d (v.extractLsb' 0 4 ++ v.extractLsb' 4 4)).advance 1)

/-- R258: `SBI A, b`; it stops with whatever the device raises. -/
def execSbi (a : IoLow) (b : BitNum) (s : State) : Result := concludeAfter 1 (ioBitWrite a b true s)

/-- R259: `CBI A, b`; it stops with whatever the device raises. -/
def execCbi (a : IoLow) (b : BitNum) (s : State) : Result := concludeAfter 1 (ioBitWrite a b false s)

/-- R260: `BST Rr, b`. -/
def execBst (r : Reg) (b : BitNum) (s : State) : Result :=
  .next (s.writeFlags (putFlag s.sreg .t (getBit (s.reg r) b)))

/-- R261: `BLD Rd, b`. -/
def execBld (d : Reg) (b : BitNum) (s : State) : Result :=
  .next ((s.setReg d (putBit (s.reg d) b (s.flag .t))).advance 1)

/-- R262: `BSET s`. -/
def execBset (n : BitNum) (s : State) : Result := .next (setSregBit n s)

/-- R263: `BCLR s`. -/
def execBclr (n : BitNum) (s : State) : Result := .next (clearSregBit n s)

/-- R264: `SEC`. -/
def execSec (s : State) : Result := .next (setSregBit (Flag.bit .c) s)

/-- R265: `CLC`. -/
def execClc (s : State) : Result := .next (clearSregBit (Flag.bit .c) s)

/-- R266: `SEN`. -/
def execSen (s : State) : Result := .next (setSregBit (Flag.bit .n) s)

/-- R267: `CLN`. -/
def execCln (s : State) : Result := .next (clearSregBit (Flag.bit .n) s)

/-- R268: `SEZ`. -/
def execSez (s : State) : Result := .next (setSregBit (Flag.bit .z) s)

/-- R269: `CLZ`. -/
def execClz (s : State) : Result := .next (clearSregBit (Flag.bit .z) s)

/-- R270: `SEI`; `irq_inhibit` is set too. -/
def execSei (s : State) : Result := .next (setSregBit (Flag.bit .i) s)

/-- R271: `CLI`. -/
def execCli (s : State) : Result := .next (clearSregBit (Flag.bit .i) s)

/-- R272: `SES`. -/
def execSes (s : State) : Result := .next (setSregBit (Flag.bit .s) s)

/-- R273: `CLS`. -/
def execCls (s : State) : Result := .next (clearSregBit (Flag.bit .s) s)

/-- R274: `SEV`. -/
def execSev (s : State) : Result := .next (setSregBit (Flag.bit .v) s)

/-- R275: `CLV`. -/
def execClv (s : State) : Result := .next (clearSregBit (Flag.bit .v) s)

/-- R276: `SET`. -/
def execSet (s : State) : Result := .next (setSregBit (Flag.bit .t) s)

/-- R277: `CLT`. -/
def execClt (s : State) : Result := .next (clearSregBit (Flag.bit .t) s)

/-- R278: `SEH`. -/
def execSeh (s : State) : Result := .next (setSregBit (Flag.bit .h) s)

/-- R279: `CLH`. -/
def execClh (s : State) : Result := .next (clearSregBit (Flag.bit .h) s)

end Sys2Proof.Machine
end

