-- ==== Sys2Proof/Machine/Branch.lean ====
section
/-! DEFINITION. The meanings of the branch instructions, Table 2 of the source (spec/42_branch.md). -/

namespace Sys2Proof.Machine

/-- R150: `RJMP k`. -/
def execRjmp (k : BitVec 12) (s : State) : Result := .next { s with pc := s.relTarget k.toInt }

/-- R151: `IJMP`. -/
def execIjmp (s : State) : Result := .next { s with pc := s.indirectTarget }

/-- R152: `RCALL k`. -/
def execRcall (k : BitVec 12) (s : State) : Result :=
  conclude (callTo (encodeWord (.rcall k)) (s.relTarget k.toInt) s)

/-- R153: `ICALL`; the target is the Z read before the push. -/
def execIcall (s : State) : Result := conclude (callTo (encodeWord .icall) s.indirectTarget s)

/-- R154: `RET`. -/
def execRet (s : State) : Result := conclude (returnFromCall s)

/-- R155: `RETI`. -/
def execReti (s : State) : Result := conclude (returnFromInterrupt s)

/-- R156: `CPSE Rd, Rr`. -/
def execCpse (d r : Reg) (s : State) : Result := conclude (skipIf (s.reg d == s.reg r) s)

/-- R157: `CP Rd, Rr`. -/
def execCp (d r : Reg) (s : State) : Result := .next (compareWith d (s.reg r) s)

/-- R158: `CPC Rd, Rr`. -/
def execCpc (d r : Reg) (s : State) : Result :=
  .next (s.writeFlags
    (putHCNVZS s.sreg (subCarryFlags (s.reg d) (s.reg r) (s.flag .c) (s.flag .z))))

/-- R159: `CPI Rd, K`. -/
def execCpi (d : Reg) (k : Byte) (s : State) : Result := .next (compareWith d k s)

/-- R160: `SBRC Rr, b`. -/
def execSbrc (r : Reg) (b : BitNum) (s : State) : Result := conclude (skipIf (!getBit (s.reg r) b) s)

/-- R161: `SBRS Rr, b`. -/
def execSbrs (r : Reg) (b : BitNum) (s : State) : Result := conclude (skipIf (getBit (s.reg r) b) s)

/-- R162: `SBIC A, b`; the location is read once, and the instruction stops with whatever the device raises. -/
def execSbic (a : IoLow) (b : BitNum) (s : State) : Result :=
  match ioRead (ioOfLow a) s with
  | .ok (v, s1) => conclude (skipIf (!getBit v b) s1)
  | .error f => .fault f

/-- R163: `SBIS A, b`; the location is read once, and the instruction stops with whatever the device raises. -/
def execSbis (a : IoLow) (b : BitNum) (s : State) : Result :=
  match ioRead (ioOfLow a) s with
  | .ok (v, s1) => conclude (skipIf (getBit v b) s1)
  | .error f => .fault f

/-- R164: `BRBS s, k`. -/
def execBrbs (n : BitNum) (k : BitVec 7) (s : State) : Result := .next (branchIf (getBit s.sreg n) k s)

/-- R165: `BRBC s, k`. -/
def execBrbc (n : BitNum) (k : BitVec 7) (s : State) : Result := .next (branchIf (!getBit s.sreg n) k s)

/-- R166: `BREQ k`. -/
def execBreq (k : BitVec 7) (s : State) : Result := .next (branchIf (s.flag .z) k s)

/-- R167: `BRNE k`. -/
def execBrne (k : BitVec 7) (s : State) : Result := .next (branchIf (!s.flag .z) k s)

/-- R168: `BRCS k`. -/
def execBrcs (k : BitVec 7) (s : State) : Result := .next (branchIf (s.flag .c) k s)

/-- R169: `BRCC k`. -/
def execBrcc (k : BitVec 7) (s : State) : Result := .next (branchIf (!s.flag .c) k s)

/-- R170: `BRSH k`. -/
def execBrsh (k : BitVec 7) (s : State) : Result := .next (branchIf (!s.flag .c) k s)

/-- R171: `BRLO k`. -/
def execBrlo (k : BitVec 7) (s : State) : Result := .next (branchIf (s.flag .c) k s)

/-- R172: `BRMI k`. -/
def execBrmi (k : BitVec 7) (s : State) : Result := .next (branchIf (s.flag .n) k s)

/-- R173: `BRPL k`. -/
def execBrpl (k : BitVec 7) (s : State) : Result := .next (branchIf (!s.flag .n) k s)

/-- R174: `BRGE k`; the stored S is tested (90_conflicts.md C6). -/
def execBrge (k : BitVec 7) (s : State) : Result := .next (branchIf (!s.flag .s) k s)

/-- R175: `BRLT k`; the stored S is tested (90_conflicts.md C6). -/
def execBrlt (k : BitVec 7) (s : State) : Result := .next (branchIf (s.flag .s) k s)

/-- R176: `BRHS k`. -/
def execBrhs (k : BitVec 7) (s : State) : Result := .next (branchIf (s.flag .h) k s)

/-- R177: `BRHC k`. -/
def execBrhc (k : BitVec 7) (s : State) : Result := .next (branchIf (!s.flag .h) k s)

/-- R178: `BRTS k`. -/
def execBrts (k : BitVec 7) (s : State) : Result := .next (branchIf (s.flag .t) k s)

/-- R179: `BRTC k`. -/
def execBrtc (k : BitVec 7) (s : State) : Result := .next (branchIf (!s.flag .t) k s)

/-- R180: `BRVS k`. -/
def execBrvs (k : BitVec 7) (s : State) : Result := .next (branchIf (s.flag .v) k s)

/-- R181: `BRVC k`. -/
def execBrvc (k : BitVec 7) (s : State) : Result := .next (branchIf (!s.flag .v) k s)

/-- R182: `BRIE k`. -/
def execBrie (k : BitVec 7) (s : State) : Result := .next (branchIf (s.flag .i) k s)

/-- R183: `BRID k`. -/
def execBrid (k : BitVec 7) (s : State) : Result := .next (branchIf (!s.flag .i) k s)

end Sys2Proof.Machine
end

