-- ==== Sys2Proof/Machine/McuControl.lean ====
section
/-! DEFINITION. The meanings of the MCU control instructions, Table 5 of the source (spec/45_mcu_control.md). -/

namespace Sys2Proof.Machine

/-- R290: `BREAK`; by `BREAK_MODE`. -/
def execBrk (s : State) : Result :=
  match s.cfg.breakMode with
  | .refuse => .refused (.refused s.pc "BREAK")
  | .nop => .next (s.advance 1)
  | .stop => .next ({ s with stopped := true }.advance 1)

/-- R291: `NOP`. -/
def execNop (s : State) : Result := .next (s.advance 1)

/-- R292: `SLEEP`; by `SLEEP_MODE`. -/
def execSleep (s : State) : Result :=
  match s.cfg.sleepMode with
  | .nop => .next (s.advance 1)
  | .hold => .next ({ s with sleeping := true }.advance 1)

/-- R293: `WDR`; no core state changes; the platform is told. -/
def execWdr (s : State) : Result := .next ((s.emit .wdr).advance 1)

end Sys2Proof.Machine
end

