-- ==== Sys2Proof/Machine/Transfer.lean ====
section
/-! DEFINITION. The meanings of the data transfer instructions, Table 3 of the source (spec/43_data_transfer.md). -/

namespace Sys2Proof.Machine

/-- R205: `MOV Rd, Rr`. -/
def execMov (d r : Reg) (s : State) : Result := .next ((s.setReg d (s.reg r)).advance 1)

/-- R206: `LDI Rd, K`. -/
def execLdi (d : Reg) (k : Byte) (s : State) : Result := .next ((s.setReg d k).advance 1)

/-- R207: `LDS Rd, k`. -/
def execLds (d : Reg) (k : Word) (s : State) : Result := concludeAfter 2 (loadFrom k d s)

/-- R208: `LD Rd, X`. -/
def execLdX (d : Reg) (s : State) : Result := concludeAfter 1 (loadFrom (s.pointer .x) d s)

/-- R209: `LD Rd, X+`. -/
def execLdXInc (d : Reg) (s : State) : Result :=
  concludeAfter 1 (loadMoving .postIncrement .x d (encodeWord (.ldXInc d)) s)

/-- R210: `LD Rd, -X`. -/
def execLdXDec (d : Reg) (s : State) : Result :=
  concludeAfter 1 (loadMoving .preDecrement .x d (encodeWord (.ldXDec d)) s)

/-- R211: `LD Rd, Y`. -/
def execLdY (d : Reg) (s : State) : Result := concludeAfter 1 (loadFrom (s.pointer .y) d s)

/-- R212: `LD Rd, Y+`. -/
def execLdYInc (d : Reg) (s : State) : Result :=
  concludeAfter 1 (loadMoving .postIncrement .y d (encodeWord (.ldYInc d)) s)

/-- R213: `LD Rd, -Y`. -/
def execLdYDec (d : Reg) (s : State) : Result :=
  concludeAfter 1 (loadMoving .preDecrement .y d (encodeWord (.ldYDec d)) s)

/-- R214: `LDD Rd, Y+q`. -/
def execLddY (d : Reg) (q : BitVec 6) (s : State) : Result :=
  concludeAfter 1 (loadFrom (s.displaced .y q) d s)

/-- R215: `LD Rd, Z`. -/
def execLdZ (d : Reg) (s : State) : Result := concludeAfter 1 (loadFrom (s.pointer .z) d s)

/-- R216: `LD Rd, Z+`. -/
def execLdZInc (d : Reg) (s : State) : Result :=
  concludeAfter 1 (loadMoving .postIncrement .z d (encodeWord (.ldZInc d)) s)

/-- R217: `LD Rd, -Z`. -/
def execLdZDec (d : Reg) (s : State) : Result :=
  concludeAfter 1 (loadMoving .preDecrement .z d (encodeWord (.ldZDec d)) s)

/-- R218: `LDD Rd, Z+q`. -/
def execLddZ (d : Reg) (q : BitVec 6) (s : State) : Result :=
  concludeAfter 1 (loadFrom (s.displaced .z q) d s)

/-- R219: `STS k, Rr`. -/
def execSts (k : Word) (r : Reg) (s : State) : Result := concludeAfter 2 (storeTo k r s)

/-- R220: `ST X, Rr`. -/
def execStX (r : Reg) (s : State) : Result := concludeAfter 1 (storeTo (s.pointer .x) r s)

/-- R221: `ST X+, Rr`. -/
def execStXInc (r : Reg) (s : State) : Result :=
  concludeAfter 1 (storeMoving .postIncrement .x r (encodeWord (.stXInc r)) s)

/-- R222: `ST -X, Rr`. -/
def execStXDec (r : Reg) (s : State) : Result :=
  concludeAfter 1 (storeMoving .preDecrement .x r (encodeWord (.stXDec r)) s)

/-- R223: `ST Y, Rr`. -/
def execStY (r : Reg) (s : State) : Result := concludeAfter 1 (storeTo (s.pointer .y) r s)

/-- R224: `ST Y+, Rr`. -/
def execStYInc (r : Reg) (s : State) : Result :=
  concludeAfter 1 (storeMoving .postIncrement .y r (encodeWord (.stYInc r)) s)

/-- R225: `ST -Y, Rr`. -/
def execStYDec (r : Reg) (s : State) : Result :=
  concludeAfter 1 (storeMoving .preDecrement .y r (encodeWord (.stYDec r)) s)

/-- R226: `STD Y+q, Rr`. -/
def execStdY (q : BitVec 6) (r : Reg) (s : State) : Result :=
  concludeAfter 1 (storeTo (s.displaced .y q) r s)

/-- R227: `ST Z, Rr`. -/
def execStZ (r : Reg) (s : State) : Result := concludeAfter 1 (storeTo (s.pointer .z) r s)

/-- R228: `ST Z+, Rr`. -/
def execStZInc (r : Reg) (s : State) : Result :=
  concludeAfter 1 (storeMoving .postIncrement .z r (encodeWord (.stZInc r)) s)

/-- R229: `ST -Z, Rr`. -/
def execStZDec (r : Reg) (s : State) : Result :=
  concludeAfter 1 (storeMoving .preDecrement .z r (encodeWord (.stZDec r)) s)

/-- R230: `STD Z+q, Rr`. -/
def execStdZ (q : BitVec 6) (r : Reg) (s : State) : Result :=
  concludeAfter 1 (storeTo (s.displaced .z q) r s)

/-- R231: `LPM`. -/
def execLpm (s : State) : Result :=
  match progByte s (s.pointer .z) with
  | .ok v => .next ((s.setReg 0 v).advance 1)
  | .error f => .fault f

/-- R232: `IN Rd, A`; it stops with whatever the device raises. -/
def execInp (d : Reg) (a : IoAddr) (s : State) : Result :=
  match ioRead a s with
  | .ok (v, s1) => .next ((s1.setReg d v).advance 1)
  | .error f => .fault f

/-- R233: `OUT A, Rr`; it stops with whatever the device raises. -/
def execOut (a : IoAddr) (r : Reg) (s : State) : Result := concludeAfter 1 (ioWrite a (s.reg r) s)

/-- R234: `PUSH Rr`. -/
def execPush (r : Reg) (s : State) : Result :=
  concludeAfter 1 (Sys2Proof.Machine.push (some (encodeWord (.push r))) (s.reg r) s)

/-- R235: `POP Rd`. -/
def execPop (d : Reg) (s : State) : Result :=
  match Sys2Proof.Machine.pop s with
  | .ok (v, s1) => .next ((s1.setReg d v).advance 1)
  | .error f => .fault f

end Sys2Proof.Machine
end

