-- ==== Sys2Proof/Machine/Run.lean ====
section
/-! DEFINITION. Fetching an instruction, running it, and what happens at an instruction boundary (spec/00_scope.md
R13, spec/60_exceptions.md R305 to R308, R325). -/

namespace Sys2Proof.Machine

/-- R13, R58, R90: fetch and decode the instruction at the program counter; the second word is fetched only
where there is one. The order of the faults is R301's. -/
def fetch (s : State) : Except Fault Instr :=
  match progWord s s.pc with
  | .error f => .error f
  | .ok w0 =>
    if isTwoWord w0 then
      match progWord s (s.pcAfter 1) with
      | .error f => .error f
      | .ok w1 =>
        match decodeWord w0 w1 with
        | some i => .ok i
        | none => .error (.illegalOpcode s.pc w0)
    else
      match decodeWord w0 0 with
      | some i => .ok i
      | none => .error (.illegalOpcode s.pc w0)

/-- Fetch and run the instruction at the program counter (R13). -/
def runInstr (s : State) : Result :=
  match fetch s with
  | .ok i => exec i s
  | .error f => .fault f

/-- `min(P)` over the vectors a request may have, 1 to `NUM_VECTORS - 1` (R305, R306, R310; log 18). -/
def firstRequest (cfg : Config) (requests : List Nat) : Option Nat :=
  (requests.filter fun v => decide (1 ≤ v ∧ v < cfg.numVectors)).min?

/-- R306: the vector taken at this boundary, when I is set, `irq_inhibit` is clear and a request is there. -/
def interruptTaken (requests : List Nat) (s : State) : Option Nat :=
  if s.flag .i && !s.irqInhibit then firstRequest s.cfg requests else none

/-- What the platform gives at this boundary, and the state with that answer taken (log 8). -/
def nextInput (s : State) : PlatformInput × State :=
  match s.inputs with
  | [] => (PlatformInput.quiet, s)
  | p :: rest => (p, { s with inputs := rest })

/-- R325, with reset before everything (R310, R330): the step of a state at whose boundary the platform gives `p`. -/
def stepWith (p : PlatformInput) (s : State) : Result :=
  if p.reset then .next (takeReset s)
  else if s.stopped then .next s
  else
    match interruptTaken p.requests s with
    | some v => conclude (takeInterrupt v s)
    | none =>
      if s.sleeping then .next { s with irqInhibit := false }
      else runInstr { s with irqInhibit := false }

/-- A program memory with a word stored at word address `w`, the low byte first (R65). -/
def storeProgWord (m : Memory) (w : PcWord) (v : Word) : Memory :=
  (m.set flashErased (2 * w.toNat) (lowByte v)).set flashErased (2 * w.toNat + 1) (highByte v)

end Sys2Proof.Machine
end

