-- ==== Sys2Proof/Machine/Step.lean ====
section
/-! DEFINITION. The step of the machine (spec/60_exceptions.md R325), and the placing of one instruction where the
step fetches (log 7). -/

namespace Sys2Proof.Machine

/-- One step: the platform's answer at this boundary, then R325. -/
def step (s : State) : Host.Outcome State Fault Refusal := stepWith (nextInput s).1 (nextInput s).2

/-- The state with an instruction stored at the program counter: its bits are `w`, bit 0 the least significant
of the first word, every bit above `nbits` zero, two words in all. So that the very next step runs it,
the core is awake and nothing arrives at that boundary (log 7). -/
def State.withFetchWord (s : State) (nbits w : Nat) : State :=
  let v := w % 2 ^ nbits
  { s with
    flash := storeProgWord (storeProgWord s.flash (s.pcAfter 1) (BitVec.ofNat 16 (v / 2 ^ 16))) s.pc
      (BitVec.ofNat 16 v)
    sleeping := false
    stopped := false
    inputs := [] }

end Sys2Proof.Machine
end

