-- ==== Sys2Proof/Safety.lean ====
section
/-! DEFINITION. What the claims speak of: the invariant of the machine, the value a load is sure to read, what an
instruction may touch and what it leaves as it was, the flag rules as the spec writes them, the shapes the
instructions share, the stack slots of a push, and the source's table of the flags each instruction
writes. -/

namespace Sys2Proof.Machine

/-- What holds in the state after reset and every step keeps: the configuration obeys its constraints, the
program counter and SP fit their widths (R24, R29), both memories are canonical, RAM lists only RAM
addresses (R34), and the core sleeps or has stopped only under the parameter that provides it (R36). -/
structure State.Inv (s : State) : Prop where
  config : s.cfg.WF
  pcFits : s.pc.toNat < 2 ^ s.cfg.pcBits
  spFits : s.cfg.spWidth = .bits8 → s.sp.toNat < 256
  ramCanonical : Memory.WF ramErased s.ram
  ramInRange : ∀ c ∈ s.ram, s.cfg.ramStart ≤ c.1 ∧ c.1 ≤ s.cfg.ramEnd
  flashCanonical : Memory.WF flashErased s.flash
  sleepsByHold : s.sleeping = true → s.cfg.sleepMode = .hold
  stopsByStop : s.stopped = true → s.cfg.breakMode = .stop

/-- What an I/O location is sure to read as (R55); none where the answer is a device's. -/
def State.ioByte (s : State) (a : IoAddr) : Option Byte :=
  match ioPlace s.cfg a with
  | .sreg => some s.sreg
  | .spl => some (lowByte s.sp)
  | .sph => some s.spHigh
  | .device =>
    match s.cfg.ioDevice with
    | .plainStorage => some s.io[a.val]
    | .platform _ => none

/-- What a data-space address is sure to read as (R52); none where the byte is free or there is none. -/
def State.dataByte (s : State) (a : Word) : Option Byte :=
  match route s.cfg a with
  | .reg i => some (s.reg i)
  | .io p => s.ioByte p
  | .ram => s.ramByte a.toNat
  | .extra => none
  | .unmapped => none

/-- The parts of the state an instruction may change, beside the program counter: what is not named here stays. -/
structure Touched where
  regs : List Reg := []
  flags : List Flag := []
  sp : Bool := false
  ram : List Nat := []
  io : List IoAddr := []
  inhibit : Bool := false
  sleeping : Bool := false
  stopped : Bool := false
  events : Bool := false
  draws : Bool := false
deriving DecidableEq, Repr

/-- The frame of an instruction: from `s` to `t` nothing changed but what `w` names and the program counter. The
configuration, program memory and the platform's coming answers never change. -/
structure OnlyTouches (w : Touched) (s t : State) : Prop where
  cfg : t.cfg = s.cfg
  regs : ∀ i, i ∉ w.regs → t.reg i = s.reg i
  flags : ∀ f, f ∉ w.flags → t.flag f = s.flag f
  sp : w.sp = false → t.sp = s.sp
  ram : ∀ a, a ∉ w.ram → t.ramByte a = s.ramByte a
  io : ∀ a : IoAddr, a ∉ w.io → t.io[a.val] = s.io[a.val]
  flash : ∀ a, t.flashByte a = s.flashByte a
  inputs : t.inputs = s.inputs
  inhibit : w.inhibit = false → t.irqInhibit = s.irqInhibit
  sleeping : w.sleeping = false → t.sleeping = s.sleeping
  stopped : w.stopped = false → t.stopped = s.stopped
  events : w.events = false → t.events = s.events
  draws : w.draws = false → t.draws = s.draws

/-- Every flag of SREG. -/
def allFlags : List Flag := [.c, .z, .n, .v, .s, .h, .t, .i]

/-- What a write of an I/O location may touch (R56): SREG's flags, with `irq_inhibit` (R307); SP; the location; or
only the platform's events. -/
def ioWriteTouches (cfg : Config) (a : IoAddr) : Touched :=
  match ioPlace cfg a with
  | .sreg => { flags := allFlags, inhibit := true, draws := true }
  | .spl => { sp := true }
  | .sph => { sp := true }
  | .device =>
    match cfg.ioDevice with
    | .plainStorage => { io := [a] }
    | .platform _ => { events := true }

/-- What a store at a data address may touch (R53): for RAM the one byte at that address. -/
def storeTouches (cfg : Config) (a : Word) : Touched :=
  match route cfg a with
  | .reg i => { regs := [i] }
  | .io p => ioWriteTouches cfg p
  | .ram => { ram := [a.toNat] }
  | .extra => { events := true }
  | .unmapped => {}

/-- What a load from a data address into `ds` may touch: the registers, and, where the byte is not sure, the
platform's events and the draw counter (R52). -/
def loadTouches (s : State) (a : Word) (ds : List Reg) : Touched :=
  { regs := ds, events := (s.dataByte a).isNone, draws := (s.dataByte a).isNone }

/-- What a read of an I/O location into `ds` may touch (R55). -/
def ioReadTouches (s : State) (a : IoAddr) (ds : List Reg) : Touched :=
  { regs := ds, events := (s.ioByte a).isNone, draws := (s.ioByte a).isNone }

/-- What either of the two names. -/
def Touched.union (w w' : Touched) : Touched where
  regs := w.regs ++ w'.regs
  flags := w.flags ++ w'.flags
  sp := w.sp || w'.sp
  ram := w.ram ++ w'.ram
  io := w.io ++ w'.io
  inhibit := w.inhibit || w'.inhibit
  sleeping := w.sleeping || w'.sleeping
  stopped := w.stopped || w'.stopped
  events := w.events || w'.events
  draws := w.draws || w'.draws

/-- The events that one read of an I/O location hands the platform: one, where its device answers (R55; log 10). -/
def ioReadEvents (cfg : Config) (a : IoAddr) : List PlatformEvent :=
  match ioPlace cfg a, cfg.ioDevice with
  | .device, .platform _ => [.ioRead a]
  | _, _ => []

/-- The events that one write of an I/O location hands the platform (R56; log 10). -/
def ioWriteEvents (cfg : Config) (a : IoAddr) (v : Byte) : List PlatformEvent :=
  match ioPlace cfg a, cfg.ioDevice with
  | .device, .platform _ => [.ioWrite a v]
  | _, _ => []

/-- The events that one read of a data address hands the platform (R52; log 10). -/
def readEvents (cfg : Config) (a : Word) : List PlatformEvent :=
  match route cfg a with
  | .reg _ => []
  | .io p => ioReadEvents cfg p
  | .ram => []
  | .extra => [.extraRead a]
  | .unmapped => []

/-- The events that one write of a data address hands the platform (R53; log 10). -/
def writeEvents (cfg : Config) (a : Word) (v : Byte) : List PlatformEvent :=
  match route cfg a with
  | .reg _ => []
  | .io p => ioWriteEvents cfg p v
  | .ram => []
  | .extra => [.extraWrite a v]
  | .unmapped => []

/-- From `s` to `t` the platform was handed the reads `es` and nothing else, and answered each with one free byte
(log 10). -/
def ReadsOnly (es : List PlatformEvent) (s t : State) : Prop :=
  t.events = es ++ s.events ∧ t.draws = s.draws + es.length

/-- R52, R53: an access of the data address `a` completes, after the platform was handed `events`: the data map gives the
address a meaning, and where it is an I/O location nothing is raised. -/
abbrev Completes (cfg : Config) (events : List PlatformEvent) (a : Word) : Prop :=
  route cfg a ≠ .unmapped ∧ ∀ p, route cfg a = .io p → deviceRaises cfg events p = false

/-- R52, R53: the outcome `r` of something that accesses the data address `a`, where that access does not complete:
`UnmappedAccess`, or what the device raises on the access it is handed (log 34). -/
def AccessStops (cfg : Config) (events : List PlatformEvent) (a : Word) (access : IoAddr → PlatformEvent)
    (r : Result) : Prop :=
  (route cfg a = .unmapped → r = .fault (.unmappedAccess a)) ∧
  (∀ p, route cfg a = .io p → deviceRaises cfg events p = true → r = .fault (.deviceRaised (access p)))

/-- The two registers of a pointer (R22). -/
def Pointer.regs (p : Pointer) : List Reg := [p.low, nextReg p.low]

/-- The data address of the byte pushed after `k` others: SP - k modulo `2^SP_BITS` (R61). -/
def State.pushSlot (s : State) (k : Nat) : Word := moveSp s.cfg s.sp (-(BitVec.ofNat 16 k))

/-- The data address of the byte popped after `k` others: SP + k + 1 modulo `2^SP_BITS` (R62). -/
def State.popSlot (s : State) (k : Nat) : Word := moveSp s.cfg s.sp (BitVec.ofNat 16 (k + 1))

/-- The next `n` pushed bytes land in internal RAM, each in a byte of its own. -/
def State.PushRoom (s : State) (n : Nat) : Prop := ∀ k < n, route s.cfg (s.pushSlot k) = .ram

/-- The bytes of a return address, `pcBytes` of them, are on the stack in RAM: the most significant is popped first
(R64). -/
def State.ReturnOnStack (s : State) (w : Nat) : Prop :=
  w < 2 ^ (8 * pcBytes s.cfg) ∧
  ∀ k < pcBytes s.cfg, route s.cfg (s.popSlot k) = .ram ∧
    s.ramByte (s.popSlot k).toNat = some (BitVec.ofNat 8 (w / 256 ^ (pcBytes s.cfg - 1 - k)))

/-- The instruction ended at the word `n` further on, and changed nothing but what `w` names (R13, R25). -/
structure Advances (n : Nat) (w : Touched) (s t : State) : Prop where
  pc : t.pc = s.pcAfter n
  frame : OnlyTouches w s t

/-! ## The flag rules, as the spec writes them -/

/-- The flags of an arithmetic instruction with all six (R111, R112). -/
def sixFlags : List Flag := [.z, .c, .n, .v, .s, .h]

/-- The flags of a logic instruction (R113). -/
def logicalFlags : List Flag := [.z, .n, .v, .s]

/-- The flags of ADIW, SBIW, COM and the right shifts that write S (R116, R121, R127, R251). -/
def fiveFlags : List Flag := [.z, .c, .n, .v, .s]

/-- R111: the flags in `t` after the 8-bit addition of `a`, `b` and `cin` with result `r`, by the formulas on bits
and by the equivalent comparisons of sums. -/
structure AdditionFlags (a b : Byte) (cin : Bool) (r : Byte) (t : State) : Prop where
  h : t.flag .h = (getBit a 3 && getBit b 3 || getBit b 3 && !getBit r 3 || !getBit r 3 && getBit a 3)
  v : t.flag .v = (getBit a 7 && getBit b 7 && !getBit r 7 || !getBit a 7 && !getBit b 7 && getBit r 7)
  n : t.flag .n = getBit r 7
  z : t.flag .z = decide (r = 0x00)
  c : t.flag .c = (getBit a 7 && getBit b 7 || getBit b 7 && !getBit r 7 || !getBit r 7 && getBit a 7)
  s : t.flag .s = (t.flag .n ^^ t.flag .v)
  cSum : t.flag .c = decide (256 ≤ a.toNat + b.toNat + cin.toNat)
  hSum : t.flag .h = decide (16 ≤ a.toNat % 16 + b.toNat % 16 + cin.toNat)
  vSum : t.flag .v =
    decide (a.toInt + b.toInt + (cin.toNat : Int) < -128 ∨ 127 < a.toInt + b.toInt + (cin.toNat : Int))

/-- R112: the flags in `t` after the 8-bit subtraction of `b` and `bin` from `a` with result `r`, by the formulas on
bits and by the equivalent comparisons; `z` is what the rule gives for Z. -/
structure SubtractionFlags (a b : Byte) (bin : Bool) (r : Byte) (z : Bool) (t : State) : Prop where
  h : t.flag .h = (!getBit a 3 && getBit b 3 || getBit b 3 && getBit r 3 || getBit r 3 && !getBit a 3)
  v : t.flag .v = (getBit a 7 && !getBit b 7 && !getBit r 7 || !getBit a 7 && getBit b 7 && getBit r 7)
  n : t.flag .n = getBit r 7
  z : t.flag .z = z
  c : t.flag .c = (!getBit a 7 && getBit b 7 || getBit b 7 && getBit r 7 || getBit r 7 && !getBit a 7)
  s : t.flag .s = (t.flag .n ^^ t.flag .v)
  cSum : t.flag .c = decide (a.toNat < b.toNat + bin.toNat)
  hSum : t.flag .h = decide (a.toNat % 16 < b.toNat % 16 + bin.toNat)

/-- R136: C, V, N, S and Z in `t` after the 16-bit subtraction or comparison `a - b`: the unsigned order, the signed
overflow, the top bit and the sign of the difference, and equality. -/
structure DifferenceFlags (a b : Word) (t : State) : Prop where
  c : t.flag .c = decide (a.toNat < b.toNat)
  v : t.flag .v = decide (a.toInt - b.toInt < -32768 ∨ 32767 < a.toInt - b.toInt)
  n : t.flag .n = (a - b).getLsbD 15
  s : t.flag .s = decide (a.toInt < b.toInt)
  z : t.flag .z = decide (a = b)

/-- R113: the flags in `t` after a logic operation with result `r`; S is N xor V, so it is N. -/
structure LogicalFlags (r : Byte) (t : State) : Prop where
  v : t.flag .v = false
  n : t.flag .n = getBit r 7
  z : t.flag .z = decide (r = 0x00)
  s : t.flag .s = (t.flag .n ^^ t.flag .v)

/-- R251: C, Z, N and V in `t` after a shift with result `r` that shifted the bit `out` out. -/
structure ShiftFlags (out : Bool) (r : Byte) (t : State) : Prop where
  c : t.flag .c = out
  z : t.flag .z = decide (r = 0x00)
  n : t.flag .n = getBit r 7
  v : t.flag .v = (t.flag .n ^^ t.flag .c)

/-! ## Where a stored byte goes -/

/-- R307: `irq_inhibit` after the byte `v` was written to SREG: by `SREG_STORE_I_DELAY` where it changes I from 0 to 1,
else as it was. Under `either` both outcomes are allowed. -/
def InhibitAfterSregWrite (v : Byte) (s t : State) : Prop :=
  if s.flag .i = false ∧ getFlag v .i = true then
    match s.cfg.sregStoreIDelay with
    | .yes => t.irqInhibit = true
    | .no => t.irqInhibit = s.irqInhibit
    | .either => t.irqInhibit = s.irqInhibit ∨ t.irqInhibit = true
  else t.irqInhibit = s.irqInhibit

/-- R56: in `t` the byte `v` has been written to the I/O location `a`. -/
def IoWritten (a : IoAddr) (v : Byte) (s t : State) : Prop :=
  match ioPlace s.cfg a with
  | .sreg => t.sreg = v ∧ InhibitAfterSregWrite v s t
  | .spl => lowByte t.sp = v ∧ highByte t.sp = highByte s.sp
  | .sph =>
    match s.cfg.spWidth with
    | .bits16 => highByte t.sp = v ∧ lowByte t.sp = lowByte s.sp
    | .bits8 => t.sp = s.sp
  | .device =>
    match s.cfg.ioDevice with
    | .plainStorage => t.io[a.val] = v
    | .platform _ => t.events = .ioWrite a v :: s.events

/-- R53: in `t` the byte `v` has been written to the data address `a`. -/
def Stored (a : Word) (v : Byte) (s t : State) : Prop :=
  match route s.cfg a with
  | .reg i => t.reg i = v
  | .io p => IoWritten p v s t
  | .ram => t.ramByte a.toNat = some v
  | .extra => t.events = .extraWrite a v :: s.events
  | .unmapped => False

/-- R52: in `t` the register `d` holds the byte read at the data address `a` in `s`: the sure one, or a free one that
the platform or an unwritten RAM byte gave; the platform was handed that one read, where it answers. -/
def Loaded (a : Word) (d : Reg) (s t : State) : Prop :=
  (∃ v u, memRead a s = .ok (v, u) ∧ t.reg d = v) ∧ (∀ v, s.dataByte a = some v → t.reg d = v) ∧
  t.events = readEvents s.cfg a ++ s.events

/-! ## Shapes of instructions -/

/-- R185: the instruction with offset `k` goes to `pc + 1 + k` where `c` holds and else to `pc + 1`, both modulo
`2^PC_BITS`, and changes nothing but the program counter. -/
def BranchesIf (i : BitVec 7 → Instr) (c : State → Bool) : Prop :=
  ∀ (k : BitVec 7) (s : State), s.cfg.pcBits ≤ 22 →
    ∃ t, exec (i k) s = .next t ∧ OnlyTouches {} s t ∧
      (t.pc.toNat : Int) =
        if c s then ((s.pc.toNat : Int) + 1 + k.toInt) % ((2 ^ s.cfg.pcBits : Nat) : Int)
        else ((s.pc.toNat : Int) + 1) % ((2 ^ s.cfg.pcBits : Nat) : Int)

/-- R184: the instruction goes to the next word where `c` does not hold; where it holds it passes over the next
instruction, one word long or two, and changes nothing but what `w` names; it hands the platform the reads `es`
and no other; an illegal next word and one outside program memory stop it. All this where `ok` holds: where the
instruction's own read raises nothing. -/
def SkipsIf (i : Instr) (ok c : State → Bool) (w : State → Touched) (es : State → List PlatformEvent) : Prop :=
  ∀ s : State, ok s = true →
    (c s = false → ∃ t, exec i s = .next t ∧ Advances 1 (w s) s t ∧ ReadsOnly (es s) s t) ∧
    (c s = true → ∀ w1, progWord s (s.pcAfter 1) = .ok w1 → isLegalWord w1 = true →
      ∃ t, exec i s = .next t ∧ Advances (if w1 &&& 0xFC0F = 0x9000 then 3 else 2) (w s) s t ∧
        ReadsOnly (es s) s t) ∧
    (c s = true → ∀ w1, progWord s (s.pcAfter 1) = .ok w1 → isLegalWord w1 = false →
      exec i s = .fault (.illegalOpcode (s.pcAfter 1) w1)) ∧
    (c s = true → s.cfg.flashWords ≤ (s.pcAfter 1).toNat →
      exec i s = .fault (.fetchOutOfRange (s.pcAfter 1)))

/-- The instruction writes `v` to register `d` and the flags of a logic operation (R113). -/
def ComputesLogic (i : Instr) (d : Reg) (v : Byte) (s : State) : Prop :=
  ∃ t, exec i s = .next t ∧ Advances 1 { regs := [d], flags := logicalFlags } s t ∧ t.reg d = v ∧
    LogicalFlags v t

/-- R264 to R279: the word of `i` is `w`, another name of BSET or BCLR with the bit of `f`; the instruction writes the
flag `f` and, where `inhibits`, sets `irq_inhibit`. -/
def WritesFlag (i : Instr) (w : Word) (f : Flag) (b inhibits : Bool) : Prop :=
  encode i = [w] ∧ i.base = (if b then .bset f.bit else .bclr f.bit) ∧
  ∀ s : State, ∃ t, exec i s = .next t ∧ Advances 1 { flags := [f], inhibit := inhibits } s t ∧ t.flag f = b ∧
    (inhibits = true → t.irqInhibit = true)

/-- The instruction loads `d` from the data address `a s` and is `n` words long; where that access does not complete
it stops (R200). -/
def LoadsPlainly (i : Instr) (n : Nat) (a : State → Word) (d : Reg) : Prop :=
  ∀ s : State,
    (Completes s.cfg s.events (a s) →
      ∃ t, exec i s = .next t ∧ Advances n (loadTouches s (a s) [d]) s t ∧ Loaded (a s) d s t) ∧
    AccessStops s.cfg s.events (a s) .ioRead (exec i s)

/-- The instruction stores `r` at the data address `a s` and is `n` words long; where that access does not complete
it stops (R200). -/
def StoresPlainly (i : Instr) (n : Nat) (a : State → Word) (r : Reg) : Prop :=
  ∀ s : State,
    (Completes s.cfg s.events (a s) →
      ∃ t, exec i s = .next t ∧ Advances n (storeTouches s.cfg (a s)) s t ∧ Stored (a s) (s.reg r) s t) ∧
    AccessStops s.cfg s.events (a s) (.ioWrite · (s.reg r)) (exec i s)

/-- R204: the two cases in which a moving form with data register `r` and address `a` is undefined. -/
def MovingFormUndefined (p : Pointer) (r : Reg) (a : Word) (s : State) : Prop :=
  r ∈ p.regs ∨ (s.cfg.regsInDataSpace = true ∧ (a.toNat = p.low.val ∨ a.toNat = p.low.val + 1))

/-- R201: the instruction loads `d` from the address that moving `p` by `m` accesses, and moves `p`. -/
def LoadsMoving (i : Instr) (m : PointerMove) (p : Pointer) (d : Reg) : Prop :=
  ∀ s : State, ¬MovingFormUndefined p d (m.address (s.pointer p)) s →
    (Completes s.cfg s.events (m.address (s.pointer p)) →
      ∃ t, exec i s = .next t ∧ Advances 1 (loadTouches s (m.address (s.pointer p)) (d :: p.regs)) s t ∧
        Loaded (m.address (s.pointer p)) d s t ∧ t.pointer p = m.after (s.pointer p)) ∧
    AccessStops s.cfg s.events (m.address (s.pointer p)) .ioRead (exec i s)

/-- What a store at the data address `a` by a form that moves `p` may touch. -/
def movingStoreTouches (cfg : Config) (p : Pointer) (a : Word) : Touched :=
  { storeTouches cfg a with regs := p.regs ++ (storeTouches cfg a).regs }

/-- R201: the instruction stores `r` at the address that moving `p` by `m` accesses, and moves `p`. -/
def StoresMoving (i : Instr) (m : PointerMove) (p : Pointer) (r : Reg) : Prop :=
  ∀ s : State, ¬MovingFormUndefined p r (m.address (s.pointer p)) s →
    (Completes s.cfg s.events (m.address (s.pointer p)) →
      ∃ t, exec i s = .next t ∧ Advances 1 (movingStoreTouches s.cfg p (m.address (s.pointer p))) s t ∧
        Stored (m.address (s.pointer p)) (s.reg r) s t ∧ t.pointer p = m.after (s.pointer p)) ∧
    AccessStops s.cfg s.events (m.address (s.pointer p)) (.ioWrite · (s.reg r)) (exec i s)

/-! ## The stack -/

/-- The RAM bytes the next `n` pushes store to. -/
def State.pushBytes (s : State) (n : Nat) : List Nat := (List.range n).map fun k => (s.pushSlot k).toNat

/-- The byte of a return address that is pushed after `k` others: the least significant first (R63). -/
def returnByte (w : PcWord) (k : Nat) : Byte := BitVec.ofNat 8 (w.toNat / 256 ^ k)

/-- R63: in `t` the `n` least significant bytes of the return address `w` are where `n` pushes from `s` put them, the
least significant at the highest address. -/
def ReturnPushed (n : Nat) (w : PcWord) (s t : State) : Prop :=
  ∀ k < n, t.ramByte (s.pushSlot k).toNat = some (returnByte w k)

/-- The events handed over by the time `k` bytes of the return address `w` have been pushed, those of `s` among them. -/
def State.pushEvents (s : State) (w : PcWord) (k : Nat) : List PlatformEvent :=
  (List.range k).reverse.flatMap (fun j => writeEvents s.cfg (s.pushSlot j) (returnByte w j)) ++ s.events

/-- Each of the `n` bytes of the return address `w` can be pushed: none lands on SP's own location, and each store
completes (R54, R61). -/
def State.PushesLand (s : State) (n : Nat) (w : PcWord) : Prop :=
  ∀ k < n, isSpLocation s.cfg (s.pushSlot k) = false ∧ Completes s.cfg (s.pushEvents w k) (s.pushSlot k)

/-- What the stores of the next `n` pushes, and the move of SP, may touch. -/
def State.pushTouches (s : State) (n : Nat) : Touched :=
  (List.range n).foldr (fun k w => (storeTouches s.cfg (s.pushSlot k)).union w) { sp := true }

/-- R61, R63: from `s` to `t` the `n` least significant bytes of `w` were pushed, wherever in the data map the stack is.
A byte stored in the core or in plain storage is what its slot then reads as; one stored at a platform's address was
handed over, in the order of the pushes (log 10); one stored on SREG acts on `irq_inhibit` as any store to SREG
does (R307; log 22). Nothing else changed. -/
structure PushedAnywhere (n : Nat) (w : PcWord) (s t : State) : Prop where
  sp : t.sp = s.pushSlot n
  bytes : ∀ k < n, writeEvents s.cfg (s.pushSlot k) (returnByte w k) = [] →
    t.dataByte (s.pushSlot k) = some (returnByte w k)
  events : t.events = s.pushEvents w n
  inhibit : ∀ k < n, (s.pushSlot k).toNat = s.cfg.ioDataBase + s.cfg.ioSreg →
    InhibitAfterSregWrite (returnByte w k) s t
  frame : OnlyTouches (s.pushTouches n) s t

/-- R54, R301: the outcome `r` of something in `s` that pushes the `n` bytes of the return address `w`, where they cannot
all be stored: `UndefinedForm`, with the word `w0`, where one would land on SP's own location; else what stops the
first store that does not complete (logs 13, 14 and 34). -/
def PushStops (n : Nat) (w0 : Option Word) (w : PcWord) (s : State) (r : Result) : Prop :=
  ((∃ k < n, isSpLocation s.cfg (s.pushSlot k) = true) → r = .fault (.undefinedForm s.pc w0)) ∧
  (∀ m < n, (∀ k < n, isSpLocation s.cfg (s.pushSlot k) = false) →
    (∀ k < m, Completes s.cfg (s.pushEvents w k) (s.pushSlot k)) →
    AccessStops s.cfg (s.pushEvents w m) (s.pushSlot m) (.ioWrite · (returnByte w m)) r)

/-- The byte that the pop after `k` others is sure to give: SP's own locations read as the SP of that pop (R62;
log 26); none where it is free. -/
def State.popByte (s : State) (k : Nat) : Option Byte :=
  ({ s with sp := s.popSlot k } : State).dataByte (s.popSlot k)

/-- The events handed over by the time `k` bytes have been popped, those of `s` among them. -/
def State.popEvents (s : State) (k : Nat) : List PlatformEvent :=
  (List.range k).reverse.flatMap (fun j => readEvents s.cfg (s.popSlot j)) ++ s.events

/-- The number whose bytes are `b 0` to `b (n - 1)`, the most significant first (R64). -/
def numberOfBytes (n : Nat) (b : Nat → Byte) : Nat := (List.range n).foldl (fun x k => 256 * x + (b k).toNat) 0

/-- R64: from `s` to `t` a return address of `n` bytes was popped into the program counter, wherever in the data map the
stack is: a byte that is sure is that byte, another one is free (logs 5 and 10); the platform was handed the
reads of its own addresses, in the order of the pops. -/
structure PoppedAnywhere (n : Nat) (s t : State) : Prop where
  sp : t.sp = s.popSlot (n - 1)
  pc : ∃ b : Nat → Byte, (∀ k < n, ∀ v, s.popByte k = some v → b k = v) ∧
    (s.cfg.pcBits ≤ 22 → t.pc.toNat = numberOfBytes n b % 2 ^ s.cfg.pcBits)
  events : t.events = s.popEvents n

/-- What the `n` pops of a return may touch: SP, and, where a byte is not sure, the platform's events and the draw
counter. -/
def State.popTouches (s : State) (n : Nat) : Touched :=
  let free := (List.range n).any fun k => (s.popByte k).isNone
  { sp := true, events := free, draws := free }

/-! ## The bytes at the program counter -/

/-- The bytes of two program words, the one at the program counter and the next one (R65). -/
def State.codeBytes (s : State) : List Byte :=
  [s.flashByte (2 * s.pc.toNat), s.flashByte (2 * s.pc.toNat + 1),
   s.flashByte (2 * (s.pcAfter 1).toNat), s.flashByte (2 * (s.pcAfter 1).toNat + 1)]

/-- The bits of an instruction as one number, numbered as spec/opcode_table.json numbers them. -/
def instrNumber (i : Instr) : Nat :=
  (encode i).foldr (fun w n => w.toNat + 65536 * n) 0

/-- R325: nothing but the fetched instruction can happen in this step: no reset, not stopped, not asleep, and no
interrupt is taken. -/
def State.RunsInstruction (s : State) : Prop :=
  (nextInput s).1.reset = false ∧ s.stopped = false ∧ s.sleeping = false ∧
  interruptTaken (nextInput s).1.requests s = none

/-- The state in which the fetched instruction runs: the platform's answer is taken and `irq_inhibit` is
clear (R325). -/
def State.atInstruction (s : State) : State := { (nextInput s).2 with irqInhibit := false }

/-- The flags an instruction writes: the source's Flags column (spec/95_test_vectors.md section 1), with S for LSL
and ROL (90_conflicts.md C3) and, under `SHIFT_WRITES_S`, for LSR, ROR and ASR (C4). -/
def flagsWritten (cfg : Config) : Instr → List Flag
  | .add _ _ => [.z, .c, .n, .v, .s, .h]
  | .adc _ _ => [.z, .c, .n, .v, .s, .h]
  | .adiw _ _ => [.z, .c, .n, .v, .s]
  | .sub _ _ => [.z, .c, .n, .v, .s, .h]
  | .subi _ _ => [.z, .c, .n, .v, .s, .h]
  | .sbc _ _ => [.z, .c, .n, .v, .s, .h]
  | .sbci _ _ => [.z, .c, .n, .v, .s, .h]
  | .sbiw _ _ => [.z, .c, .n, .v, .s]
  | .and _ _ => [.z, .n, .v, .s]
  | .andi _ _ => [.z, .n, .v, .s]
  | .or _ _ => [.z, .n, .v, .s]
  | .ori _ _ => [.z, .n, .v, .s]
  | .eor _ _ => [.z, .n, .v, .s]
  | .com _ => [.z, .c, .n, .v, .s]
  | .neg _ => [.z, .c, .n, .v, .s, .h]
  | .sbr _ _ => [.z, .n, .v, .s]
  | .cbr _ _ => [.z, .n, .v, .s]
  | .inc _ => [.z, .n, .v, .s]
  | .dec _ => [.z, .n, .v, .s]
  | .tst _ => [.z, .n, .v, .s]
  | .clr _ => [.z, .n, .v, .s]
  | .ser _ => []
  | .rjmp _ => []
  | .ijmp => []
  | .rcall _ => []
  | .icall => []
  | .ret => []
  | .reti => [.i]
  | .cpse _ _ => []
  | .cp _ _ => [.z, .c, .n, .v, .s, .h]
  | .cpc _ _ => [.z, .c, .n, .v, .s, .h]
  | .cpi _ _ => [.z, .c, .n, .v, .s, .h]
  | .sbrc _ _ => []
  | .sbrs _ _ => []
  | .sbic _ _ => []
  | .sbis _ _ => []
  | .brbs _ _ => []
  | .brbc _ _ => []
  | .breq _ => []
  | .brne _ => []
  | .brcs _ => []
  | .brcc _ => []
  | .brsh _ => []
  | .brlo _ => []
  | .brmi _ => []
  | .brpl _ => []
  | .brge _ => []
  | .brlt _ => []
  | .brhs _ => []
  | .brhc _ => []
  | .brts _ => []
  | .brtc _ => []
  | .brvs _ => []
  | .brvc _ => []
  | .brie _ => []
  | .brid _ => []
  | .mov _ _ => []
  | .ldi _ _ => []
  | .lds _ _ => []
  | .ldX _ => []
  | .ldXInc _ => []
  | .ldXDec _ => []
  | .ldY _ => []
  | .ldYInc _ => []
  | .ldYDec _ => []
  | .lddY _ _ => []
  | .ldZ _ => []
  | .ldZInc _ => []
  | .ldZDec _ => []
  | .lddZ _ _ => []
  | .sts _ _ => []
  | .stX _ => []
  | .stXInc _ => []
  | .stXDec _ => []
  | .stY _ => []
  | .stYInc _ => []
  | .stYDec _ => []
  | .stdY _ _ => []
  | .stZ _ => []
  | .stZInc _ => []
  | .stZDec _ => []
  | .stdZ _ _ => []
  | .lpm => []
  | .inp _ _ => []
  | .out _ _ => []
  | .push _ => []
  | .pop _ => []
  | .lsl _ => [.z, .c, .n, .v, .h, .s]
  | .lsr _ => if cfg.shiftWritesS then [.z, .c, .n, .v, .s] else [.z, .c, .n, .v]
  | .rol _ => [.z, .c, .n, .v, .h, .s]
  | .ror _ => if cfg.shiftWritesS then [.z, .c, .n, .v, .s] else [.z, .c, .n, .v]
  | .asr _ => if cfg.shiftWritesS then [.z, .c, .n, .v, .s] else [.z, .c, .n, .v]
  | .swap _ => []
  | .sbi _ _ => []
  | .cbi _ _ => []
  | .bst _ _ => [.t]
  | .bld _ _ => []
  | .bset n => allFlags.filter (·.bit == n)
  | .bclr n => allFlags.filter (·.bit == n)
  | .sec => [.c]
  | .clc => [.c]
  | .sen => [.n]
  | .cln => [.n]
  | .sez => [.z]
  | .clz => [.z]
  | .sei => [.i]
  | .cli => [.i]
  | .ses => [.s]
  | .cls => [.s]
  | .sev => [.v]
  | .clv => [.v]
  | .set => [.t]
  | .clt => [.t]
  | .seh => [.h]
  | .clh => [.h]
  | .brk => []
  | .nop => []
  | .sleep => []
  | .wdr => []

/-- The instructions that write a byte of the data space or the I/O space: their target may be SREG itself (R28). -/
def writesData : Instr → Bool
  | .add _ _ => false
  | .adc _ _ => false
  | .adiw _ _ => false
  | .sub _ _ => false
  | .subi _ _ => false
  | .sbc _ _ => false
  | .sbci _ _ => false
  | .sbiw _ _ => false
  | .and _ _ => false
  | .andi _ _ => false
  | .or _ _ => false
  | .ori _ _ => false
  | .eor _ _ => false
  | .com _ => false
  | .neg _ => false
  | .sbr _ _ => false
  | .cbr _ _ => false
  | .inc _ => false
  | .dec _ => false
  | .tst _ => false
  | .clr _ => false
  | .ser _ => false
  | .rjmp _ => false
  | .ijmp => false
  | .rcall _ => true
  | .icall => true
  | .ret => false
  | .reti => false
  | .cpse _ _ => false
  | .cp _ _ => false
  | .cpc _ _ => false
  | .cpi _ _ => false
  | .sbrc _ _ => false
  | .sbrs _ _ => false
  | .sbic _ _ => false
  | .sbis _ _ => false
  | .brbs _ _ => false
  | .brbc _ _ => false
  | .breq _ => false
  | .brne _ => false
  | .brcs _ => false
  | .brcc _ => false
  | .brsh _ => false
  | .brlo _ => false
  | .brmi _ => false
  | .brpl _ => false
  | .brge _ => false
  | .brlt _ => false
  | .brhs _ => false
  | .brhc _ => false
  | .brts _ => false
  | .brtc _ => false
  | .brvs _ => false
  | .brvc _ => false
  | .brie _ => false
  | .brid _ => false
  | .mov _ _ => false
  | .ldi _ _ => false
  | .lds _ _ => false
  | .ldX _ => false
  | .ldXInc _ => false
  | .ldXDec _ => false
  | .ldY _ => false
  | .ldYInc _ => false
  | .ldYDec _ => false
  | .lddY _ _ => false
  | .ldZ _ => false
  | .ldZInc _ => false
  | .ldZDec _ => false
  | .lddZ _ _ => false
  | .sts _ _ => true
  | .stX _ => true
  | .stXInc _ => true
  | .stXDec _ => true
  | .stY _ => true
  | .stYInc _ => true
  | .stYDec _ => true
  | .stdY _ _ => true
  | .stZ _ => true
  | .stZInc _ => true
  | .stZDec _ => true
  | .stdZ _ _ => true
  | .lpm => false
  | .inp _ _ => false
  | .out _ _ => true
  | .push _ => true
  | .pop _ => false
  | .lsl _ => false
  | .lsr _ => false
  | .rol _ => false
  | .ror _ => false
  | .asr _ => false
  | .swap _ => false
  | .sbi _ _ => false
  | .cbi _ _ => false
  | .bst _ _ => false
  | .bld _ _ => false
  | .bset _ => false
  | .bclr _ => false
  | .sec => false
  | .clc => false
  | .sen => false
  | .cln => false
  | .sez => false
  | .clz => false
  | .sei => false
  | .cli => false
  | .ses => false
  | .cls => false
  | .sev => false
  | .clv => false
  | .set => false
  | .clt => false
  | .seh => false
  | .clh => false
  | .brk => false
  | .nop => false
  | .sleep => false
  | .wdr => false

end Sys2Proof.Machine
end

