-- ==== Sys2Proof/Certificates/Slice0/Obligations.lean ====
section
/-! DEFINITION. The statements for the provers, from the numbered rules of spec/. -/

open Sys2Proof Sys2Proof.Machine

/-! ## Encoding (spec/30_encoding.md) -/

/-- R84 to R92: the bytes of a well-formed instruction decode to its base instruction (the instruction itself, or
the one its alias row names, log 12), and the bytes after them are left. -/
def Obligations.DecodeOfEncodeIsBase : Prop :=
  ∀ (i : Instr) (rest : List Byte), i.wellFormed = true →
    decode ((encode i).flatMap bytesOfWord ++ rest) = .ok (i.base, rest)

/-- R90: what the decoder answers is a well-formed base instruction, and its words are the bytes that were read
(log 12). -/
def Obligations.EncodeOfDecodeIsWords : Prop :=
  ∀ (bs rest : List Byte) (i : Instr), decode bs = .ok (i, rest) →
    i.wellFormed = true ∧ i.base = i ∧ (encode i).flatMap bytesOfWord ++ rest = bs

/-- R100: the illegal first words are those of the table's patterns, and no others. -/
def Obligations.IllegalFirstWordsArePatterns : Prop :=
  ∀ w : Word, isLegalWord w = false ↔
    (w.extractLsb' 8 8 = 0b00000000#8 ∧ w ≠ 0) ∨
    w.extractLsb' 8 8 = 0b00000001#8 ∨ w.extractLsb' 8 8 = 0b00000010#8 ∨ w.extractLsb' 8 8 = 0b00000011#8 ∨
    (w.extractLsb' 10 6 = 0b100100#6 ∧
      w.extractLsb' 0 4 ∈ [0b0011#4, 0b0100#4, 0b0101#4, 0b0110#4, 0b0111#4, 0b1000#4, 0b1011#4]) ∨
    (w.extractLsb' 9 7 = 0b1001010#7 ∧ w.extractLsb' 0 4 = 0b0100#4) ∨
    w ∈ [0x9528#16, 0x9538#16, 0x9548#16, 0x9558#16, 0x9568#16, 0x9578#16, 0x95B8#16, 0x95D8#16, 0x95E8#16,
      0x95F8#16] ∨
    (w.extractLsb' 9 7 = 0b1001010#7 ∧ w.extractLsb' 0 4 = 0b1001#4 ∧ w ≠ 0x9409 ∧ w ≠ 0x9509) ∨
    (w.extractLsb' 9 7 = 0b1001010#7 ∧ w.extractLsb' 0 4 = 0b1011#4) ∨
    (w.extractLsb' 9 7 = 0b1001010#7 ∧ w.extractLsb' 2 2 = 0b11#2) ∨
    w.extractLsb' 10 6 = 0b100111#6 ∨
    (w.extractLsb' 11 5 = 0b11111#5 ∧ w.extractLsb' 3 1 = 0b1#1)

/-- R81, R82: LDS and STS have two words, every other instruction one, and the first word alone tells which. -/
def Obligations.FirstWordTellsTheLength : Prop :=
  ∀ i : Instr, i.wellFormed = true →
    ((encode i).length = 2 ↔ encodeWord i &&& 0xFC0F = 0x9000) ∧
    ((encode i).length = 2 ↔ (∃ d k, i = .lds d k) ∨ (∃ k r, i = .sts k r)) ∧
    ((encode i).length = 1 ∨ (encode i).length = 2)

/-- Words written out from the encodings of spec/30_encoding.md and the examples of the instruction rules decode to the
instructions they stand for. -/
def Obligations.SampleWordsDecode : Prop :=
  decode [0x12, 0x0C] = .ok (.add 1 2, []) ∧                          -- 0000 1100 0001 0010
  decode [0xFF, 0x5F] = .ok (.subi 31 0xFF, []) ∧                     -- 0101 1111 1111 1111
  decode [0x01, 0x96] = .ok (.adiw 24 1, []) ∧                        -- 1001 0110 0000 0001
  decode [0xE9, 0xF3] = .ok (.brbs 1 (BitVec.ofInt 7 (-3)), []) ∧     -- 1111 0011 1110 1001
  decode [0x5F, 0xAC] = .ok (.lddY 5 63, []) ∧                        -- 1010 1100 0101 1111
  decode [0x00, 0x93, 0x00, 0x01] = .ok (.sts 0x0100 16, []) ∧        -- 1001 0011 0000 0000, then k
  decode [0x0F, 0xBF] = .ok (.out 0x3F 16, []) ∧                      -- 1011 1111 0000 1111
  decode [0x37, 0xFA] = .ok (.bst 3 7, []) ∧                          -- 1111 1010 0011 0111
  decode [0xFF, 0xFF] = .error (.illegalOpcode 0xFFFF)

/-! ## The step (spec/00_scope.md R13, spec/60_exceptions.md) -/

/-- R13: when the bytes at the program counter decode to a well-formed instruction and no reset, interrupt, stop or
sleep stands in the way, the step is that instruction's meaning, at the state with the platform's answer
taken and `irq_inhibit` clear. -/
def Obligations.StepRunsDecodedInstruction : Prop :=
  ∀ (s : State) (i : Instr) (rest : List Byte), s.RunsInstruction → i.wellFormed = true →
    s.pc.toNat < s.cfg.flashWords → ((encode i).length = 2 → (s.pcAfter 1).toNat < s.cfg.flashWords) →
    decode s.codeBytes = .ok (i, rest) → step s = exec i s.atInstruction

/-- An instruction stored where the step fetches (the model's way of placing a program, log 7) is the one the next step
runs, as its base instruction (log 12). -/
def Obligations.StoredInstructionIsRun : Prop :=
  ∀ (s : State) (i : Instr), s.Inv → i.wellFormed = true → s.pc.toNat < s.cfg.flashWords →
    ((encode i).length = 2 → (s.pcAfter 1).toNat < s.cfg.flashWords) →
    step (s.withFetchWord (16 * (encode i).length) (instrNumber i)) =
      exec i.base (s.withFetchWord (16 * (encode i).length) (instrNumber i)).atInstruction

/-- The invariant is kept by every step. -/
def Obligations.StepKeepsTheInvariant : Prop :=
  ∀ s t : State, s.Inv → step s = .next t → t.Inv

/-- The invariant holds after reset. -/
def Obligations.ResetMeetsTheInvariant : Prop := State.reset.Inv

/-- R73: no step writes program memory or the configuration: every fetch and every LPM returns the launch's
program image. -/
def Obligations.StepKeepsProgramMemory : Prop :=
  ∀ s t : State, step s = .next t →
    t.cfg = s.cfg ∧ t.flash = s.flash ∧ (∀ w, progWord t w = progWord s w) ∧ (∀ a, progByte t a = progByte s a)

/-- R330, R46: the reset event leaves the values the spec gives, whatever the state was, and the program memory; a
given `SP_RESET` is in SP, and with an 8-bit SP its low byte is (log 3). That RAM lists no byte is how the model holds
an unspecified content (log 5). -/
def Obligations.ResetEventLeavesResetValues : Prop :=
  ∀ s : State, (nextInput s).1.reset = true →
    ∃ t, step s = .next t ∧ t.pc = 0 ∧ t.sreg = 0x00 ∧ t.irqInhibit = false ∧ t.sleeping = false ∧
      t.stopped = false ∧ (∀ a, t.ramByte a = none) ∧ t.flash = s.flash ∧ t.cfg = s.cfg ∧
      (∀ v, s.cfg.spReset = some v → s.cfg.spWidth = .bits16 → t.sp = v) ∧
      (∀ v, s.cfg.spReset = some v → s.cfg.spWidth = .bits8 → t.sp.toNat = v.toNat % 256)

/-- R308: interrupt entry for vector `v` at a boundary that takes it: the address of the next instruction is pushed, I is
cleared, the core is awake, control goes to `v * VECTOR_STRIDE`, the platform is told, and nothing else changes. First
with the stack in RAM; then over a stack anywhere in the data map, where the state between, `u`, is the one after the
pushes (the platform's addresses are log 10, SREG's is log 22); last where a pushed byte stops it (logs 13, 14, 33, 34). -/
def Obligations.InterruptEntrySavesAndVectors : Prop :=
  ∀ (s : State) (v : Nat), s.Inv → (nextInput s).1.reset = false → s.stopped = false →
    interruptTaken (nextInput s).1.requests s = some v →
    (s.PushRoom (pcBytes s.cfg) →
      ∃ t, step s = .next t ∧
        t.pc.toNat = v * s.cfg.vectorStride ∧ t.flag .i = false ∧ t.sleeping = false ∧
        t.events = .irqAccepted v :: s.events ∧ t.sp = s.pushSlot (pcBytes s.cfg) ∧
        ReturnPushed (pcBytes s.cfg) s.pc s t ∧
        OnlyTouches
          { flags := [.i], sp := true, ram := s.pushBytes (pcBytes s.cfg), sleeping := true, events := true }
          (nextInput s).2 t) ∧
    (s.PushesLand (pcBytes s.cfg) s.pc →
      ∃ u t, PushedAnywhere (pcBytes s.cfg) s.pc (nextInput s).2 u ∧ step s = .next t ∧
        t.pc.toNat = v * s.cfg.vectorStride ∧ t.flag .i = false ∧ t.sleeping = false ∧
        t.events = .irqAccepted v :: u.events ∧
        OnlyTouches { flags := [.i], sleeping := true, events := true } u t) ∧
    PushStops (pcBytes s.cfg) none s.pc s (step s)

/-- R306, R310: a request is taken when I is set and `irq_inhibit` is clear, and it is the lowest pending one that is
a vector of the machine, reset's excepted (that other requests are ignored is log 18). -/
def Obligations.LowestPendingRequestIsTaken : Prop :=
  ∀ (s : State) (requests : List Nat) (v : Nat),
    interruptTaken requests s = some v ↔
      s.flag .i = true ∧ s.irqInhibit = false ∧ v ∈ requests ∧ 1 ≤ v ∧ v < s.cfg.numVectors ∧
      ∀ u ∈ requests, 1 ≤ u → u < s.cfg.numVectors → v ≤ u

/-- R307, R339: at the boundary after SEI, `BSET 7` or RETI no interrupt is taken, whatever is pending: the next
instruction runs first, with `irq_inhibit` clear again. -/
def Obligations.InstructionAfterSeiOrRetiRunsFirst : Prop :=
  ∀ (i : Instr) (s t : State) (requests : List Nat), i ∈ [.sei, .bset 7, .reti] → exec i s = .next t →
    s.stopped = false → s.sleeping = false →
    t.flag .i = true ∧
      stepWith { reset := false, requests := requests } t = runInstr { t with irqInhibit := false }

/-- R36, R290, R292, R320: the core falls asleep by SLEEP under `hold` alone and wakes by an interrupt taken or by reset
alone; it stops by BREAK under `stop` alone and leaves that by reset alone. -/
def Obligations.OnlySleepAndBreakHoldTheCore : Prop :=
  ∀ s t : State, step s = .next t →
    (s.sleeping = false → t.sleeping = true → fetch s = .ok .sleep ∧ s.cfg.sleepMode = .hold) ∧
    (s.sleeping = true → t.sleeping = false →
      (nextInput s).1.reset = true ∨ ∃ v, interruptTaken (nextInput s).1.requests s = some v) ∧
    (s.stopped = false → t.stopped = true → fetch s = .ok .brk ∧ s.cfg.breakMode = .stop) ∧
    (s.stopped = true → t.stopped = false → (nextInput s).1.reset = true)

/-- R325: without reset a stopped core changes nothing, and a sleeping one with no interrupt to take only clears
`irq_inhibit` (log 30); the boundary's answer is used up (log 8). -/
def Obligations.StoppedAndSleepingStepsChangeNothing : Prop :=
  ∀ s : State, (nextInput s).1.reset = false →
    (s.stopped = true → step s = .next (nextInput s).2) ∧
    (s.stopped = false → s.sleeping = true → interruptTaken (nextInput s).1.requests s = none →
      step s = .next s.atInstruction)

/-- R58, R100: a step that has to fetch beyond program memory, or an illegal first word, stops with the fault the
spec names; the address of a second word wraps (log 17). -/
def Obligations.FetchFaultsStopTheStep : Prop :=
  ∀ s : State, s.RunsInstruction →
    (s.cfg.flashWords ≤ s.pc.toNat → step s = .fault (.fetchOutOfRange s.pc)) ∧
    (∀ w, progWord s s.pc = .ok w →
      (isLegalWord w = false → step s = .fault (.illegalOpcode s.pc w)) ∧
      (w &&& 0xFC0F = 0x9000 → s.cfg.flashWords ≤ (s.pcAfter 1).toNat →
        step s = .fault (.fetchOutOfRange (s.pcAfter 1))))

/-! ## Memory and I/O (spec/20_memory.md) -/

/-- R51: a data-space address is routed to registers, I/O, RAM, `DATA_EXTRA` or nowhere, in that order; the first
three ranges are disjoint in every configuration that obeys its constraints; and REFCFG's map. -/
def Obligations.DataMapRouting : Prop :=
  (∀ (c : Config) (a : Word),
    (∀ i : Reg, c.regsInDataSpace = true → a.toNat = i.val → route c a = .reg i) ∧
    (¬(c.regsInDataSpace = true ∧ a.toNat ≤ 0x1F) →
      (∀ p : IoAddr, a.toNat = c.ioDataBase + p.val → route c a = .io p) ∧
      (¬(c.ioDataBase ≤ a.toNat ∧ a.toNat ≤ c.ioDataBase + 63) →
        (c.ramStart ≤ a.toNat ∧ a.toNat ≤ c.ramEnd → route c a = .ram) ∧
        (¬(c.ramStart ≤ a.toNat ∧ a.toNat ≤ c.ramEnd) →
          ((∃ r ∈ c.dataExtra, r.first ≤ a.toNat ∧ a.toNat ≤ r.last) → route c a = .extra) ∧
          ((∀ r ∈ c.dataExtra, ¬(r.first ≤ a.toNat ∧ a.toNat ≤ r.last)) → route c a = .unmapped)))) ∧
    (c.WF →
      ¬((c.regsInDataSpace = true ∧ a.toNat ≤ 0x1F) ∧ c.ioDataBase ≤ a.toNat) ∧
      ¬((c.regsInDataSpace = true ∧ a.toNat ≤ 0x1F) ∧ c.ramStart ≤ a.toNat) ∧
      ¬((c.ioDataBase ≤ a.toNat ∧ a.toNat ≤ c.ioDataBase + 63) ∧ c.ramStart ≤ a.toNat))) ∧
  (∀ a : Word,
    (a ≤ 0x001F → ∃ i : Reg, i.val = a.toNat ∧ route Config.refcfg a = .reg i) ∧
    (0x0020 ≤ a ∧ a ≤ 0x005F → ∃ p : IoAddr, p.val + 0x20 = a.toNat ∧ route Config.refcfg a = .io p) ∧
    (0x0060 ≤ a ∧ a ≤ 0x025F → route Config.refcfg a = .ram) ∧
    (0x025F < a → route Config.refcfg a = .unmapped))

/-- R34, R70: a byte written to RAM or to a register through the data space is what the next read there returns, and
no other RAM byte and no other register changes. -/
def Obligations.RamAndRegistersReadBack : Prop :=
  ∀ (s t : State) (a : Word) (v : Byte), (route s.cfg a = .ram ∨ ∃ i, route s.cfg a = .reg i) →
    memWrite a v s = .ok t →
    memRead a t = .ok (v, t) ∧
    (∀ b : Word, b ≠ a → route s.cfg b = .ram → t.ramByte b.toNat = s.ramByte b.toNat) ∧
    (∀ (b : Word) (i : Reg), b ≠ a → route s.cfg b = .reg i → t.reg i = s.reg i)

/-- R28, R30, R54: in the data space SREG and the bytes of SP are read and written at `IO_DATA_BASE` plus their I/O
locations. -/
def Obligations.SregAndSpThroughTheDataSpace : Prop :=
  ∀ (s : State) (a : Word), s.cfg.WF →
    (a.toNat = s.cfg.ioDataBase + s.cfg.ioSreg →
      memRead a s = .ok (s.sreg, s) ∧ ∀ v, ∃ t, memWrite a v s = .ok t ∧ t.sreg = v ∧ t.sp = s.sp) ∧
    (a.toNat = s.cfg.ioDataBase + s.cfg.ioSpl →
      memRead a s = .ok (lowByte s.sp, s) ∧
      ∀ v, ∃ t, memWrite a v s = .ok t ∧ lowByte t.sp = v ∧ highByte t.sp = highByte s.sp ∧ t.sreg = s.sreg) ∧
    (a.toNat = s.cfg.ioDataBase + s.cfg.ioSph → s.cfg.spWidth = .bits16 →
      memRead a s = .ok (highByte s.sp, s) ∧
      ∀ v, ∃ t, memWrite a v s = .ok t ∧ highByte t.sp = v ∧ lowByte t.sp = lowByte s.sp ∧ t.sreg = s.sreg) ∧
    (a.toNat = s.cfg.ioDataBase + s.cfg.ioSph → s.cfg.spWidth = .bits8 →
      memRead a s = .ok (0, s) ∧ ∀ v, memWrite a v s = .ok s)

/-- R64: `PopPc` after `PushPc(w)`, the stack being in RAM, returns w and leaves SP where it was. -/
def Obligations.PopPcReturnsThePushedAddress : Prop :=
  ∀ (s : State) (w0 : Option Word) (w : PcWord), s.Inv → w.toNat < 2 ^ s.cfg.pcBits →
    s.PushRoom (pcBytes s.cfg) →
    ∃ t u, pushPc w0 w s = .ok t ∧ popPc t = .ok (w, u) ∧ u.sp = s.sp ∧
      OnlyTouches { ram := s.pushBytes (pcBytes s.cfg) } s u

/-! ## Arithmetic and logic (spec/41_arithmetic_logic.md) -/

/-- R111, R114, R115: ADD and ADC write the sum modulo 256 and the six flags. -/
def Obligations.AdditionWritesSumAndFlags : Prop :=
  ∀ (d r : Reg) (s : State),
    (∃ t, exec (.add d r) s = .next t ∧ Advances 1 { regs := [d], flags := sixFlags } s t ∧
      t.reg d = BitVec.ofNat 8 ((s.reg d).toNat + (s.reg r).toNat) ∧
      AdditionFlags (s.reg d) (s.reg r) false (t.reg d) t) ∧
    (∃ t, exec (.adc d r) s = .next t ∧ Advances 1 { regs := [d], flags := sixFlags } s t ∧
      t.reg d = BitVec.ofNat 8 ((s.reg d).toNat + (s.reg r).toNat + (s.flag .c).toNat) ∧
      AdditionFlags (s.reg d) (s.reg r) (s.flag .c) (t.reg d) t)

/-- R112, R117 to R120: SUB, SUBI, SBC and SBCI write the difference modulo 256 and the six flags; with carry the old
Z is kept in Z. -/
def Obligations.SubtractionWritesDifferenceAndFlags : Prop :=
  ∀ (d r : Reg) (k : Byte) (s : State),
    (∃ t, exec (.sub d r) s = .next t ∧ Advances 1 { regs := [d], flags := sixFlags } s t ∧
      t.reg d = BitVec.ofInt 8 ((s.reg d).toNat - (s.reg r).toNat : Int) ∧
      SubtractionFlags (s.reg d) (s.reg r) false (t.reg d) (decide (t.reg d = 0)) t) ∧
    (∃ t, exec (.subi d k) s = .next t ∧ Advances 1 { regs := [d], flags := sixFlags } s t ∧
      t.reg d = BitVec.ofInt 8 ((s.reg d).toNat - k.toNat : Int) ∧
      SubtractionFlags (s.reg d) k false (t.reg d) (decide (t.reg d = 0)) t) ∧
    (∃ t, exec (.sbc d r) s = .next t ∧ Advances 1 { regs := [d], flags := sixFlags } s t ∧
      t.reg d = BitVec.ofInt 8 ((s.reg d).toNat - (s.reg r).toNat - (s.flag .c).toNat : Int) ∧
      SubtractionFlags (s.reg d) (s.reg r) (s.flag .c) (t.reg d) (decide (t.reg d = 0) && s.flag .z) t) ∧
    (∃ t, exec (.sbci d k) s = .next t ∧ Advances 1 { regs := [d], flags := sixFlags } s t ∧
      t.reg d = BitVec.ofInt 8 ((s.reg d).toNat - k.toNat - (s.flag .c).toNat : Int) ∧
      SubtractionFlags (s.reg d) k (s.flag .c) (t.reg d) (decide (t.reg d = 0) && s.flag .z) t)

/-- R112, R157 to R159: CP, CPC and CPI write the six flags of the subtraction and no register. -/
def Obligations.CompareWritesFlagsOnly : Prop :=
  ∀ (d r : Reg) (k : Byte) (s : State),
    (∃ t, exec (.cp d r) s = .next t ∧ Advances 1 { flags := sixFlags } s t ∧
      SubtractionFlags (s.reg d) (s.reg r) false (s.reg d - s.reg r) (decide (s.reg d = s.reg r)) t) ∧
    (∃ t, exec (.cpi d k) s = .next t ∧ Advances 1 { flags := sixFlags } s t ∧
      SubtractionFlags (s.reg d) k false (s.reg d - k) (decide (s.reg d = k)) t) ∧
    (∃ t, exec (.cpc d r) s = .next t ∧ Advances 1 { flags := sixFlags } s t ∧
      SubtractionFlags (s.reg d) (s.reg r) (s.flag .c)
        (BitVec.ofInt 8 ((s.reg d).toNat - (s.reg r).toNat - (s.flag .c).toNat : Int))
        (decide ((s.reg d).toNat = ((s.reg r).toNat + (s.flag .c).toNat) % 256) && s.flag .z) t)

/-- R116, R121: ADIW and SBIW write the sum and the difference modulo 65536 to the pair, and five flags; C is the
carry and the borrow. -/
def Obligations.WordArithmeticWritesPairAndFlags : Prop :=
  ∀ (d : Reg) (k : BitVec 6) (s : State), isPairReg d = true →
    (∃ t, exec (.adiw d k) s = .next t ∧ Advances 1 { regs := [d, nextReg d], flags := fiveFlags } s t ∧
      t.pair d = BitVec.ofNat 16 ((s.pair d).toNat + k.toNat) ∧
      t.flag .v = (!(s.pair d).getLsbD 15 && (t.pair d).getLsbD 15) ∧
      t.flag .c = (!(t.pair d).getLsbD 15 && (s.pair d).getLsbD 15) ∧
      t.flag .c = decide (65536 ≤ (s.pair d).toNat + k.toNat) ∧
      t.flag .n = (t.pair d).getLsbD 15 ∧ t.flag .z = decide (t.pair d = 0) ∧
      t.flag .s = (t.flag .n ^^ t.flag .v)) ∧
    (∃ t, exec (.sbiw d k) s = .next t ∧ Advances 1 { regs := [d, nextReg d], flags := fiveFlags } s t ∧
      t.pair d = BitVec.ofInt 16 ((s.pair d).toNat - k.toNat : Int) ∧
      t.flag .v = ((s.pair d).getLsbD 15 && !(t.pair d).getLsbD 15) ∧
      t.flag .c = ((t.pair d).getLsbD 15 && !(s.pair d).getLsbD 15) ∧
      t.flag .c = decide ((s.pair d).toNat < k.toNat) ∧
      t.flag .n = (t.pair d).getLsbD 15 ∧ t.flag .z = decide (t.pair d = 0) ∧
      t.flag .s = (t.flag .n ^^ t.flag .v))

/-- R113, R122 to R127, R129, R130, R133, R134: the logic instructions write their result and Z, N, V, S; COM writes C
too. -/
def Obligations.LogicWritesResultAndFlags : Prop :=
  ∀ (d r : Reg) (k : Byte) (s : State),
    ComputesLogic (.and d r) d (s.reg d &&& s.reg r) s ∧
    ComputesLogic (.andi d k) d (s.reg d &&& k) s ∧
    ComputesLogic (.or d r) d (s.reg d ||| s.reg r) s ∧
    ComputesLogic (.ori d k) d (s.reg d ||| k) s ∧
    ComputesLogic (.eor d r) d (s.reg d ^^^ s.reg r) s ∧
    ComputesLogic (.sbr d k) d (s.reg d ||| k) s ∧
    ComputesLogic (.cbr d k) d (s.reg d &&& ~~~k) s ∧
    ComputesLogic (.tst d) d (s.reg d) s ∧
    ComputesLogic (.clr d) d 0x00 s ∧
    (∃ t, exec (.com d) s = .next t ∧ Advances 1 { regs := [d], flags := fiveFlags } s t ∧
      t.reg d = ~~~s.reg d ∧ LogicalFlags (~~~s.reg d) t ∧ t.flag .c = true)

/-- R128, R131, R132: NEG writes the two's complement and the flags of `0 - Rd`; INC and DEC add and subtract one and
leave C and H alone. -/
def Obligations.NegIncDecWriteResultAndFlags : Prop :=
  ∀ (d : Reg) (s : State),
    (∃ t, exec (.neg d) s = .next t ∧ Advances 1 { regs := [d], flags := sixFlags } s t ∧
      t.reg d = BitVec.ofInt 8 (-(s.reg d).toNat : Int) ∧
      SubtractionFlags 0x00 (s.reg d) false (t.reg d) (decide (t.reg d = 0)) t ∧
      t.flag .v = decide (t.reg d = 0x80) ∧ t.flag .c = decide (t.reg d ≠ 0x00)) ∧
    (∃ t, exec (.inc d) s = .next t ∧ Advances 1 { regs := [d], flags := logicalFlags } s t ∧
      t.reg d = BitVec.ofNat 8 ((s.reg d).toNat + 1) ∧
      t.flag .v = decide (s.reg d = 0x7F) ∧ t.flag .n = getBit (t.reg d) 7 ∧
      t.flag .z = decide (t.reg d = 0) ∧ t.flag .s = (t.flag .n ^^ t.flag .v)) ∧
    (∃ t, exec (.dec d) s = .next t ∧ Advances 1 { regs := [d], flags := logicalFlags } s t ∧
      t.reg d = BitVec.ofInt 8 ((s.reg d).toNat - 1 : Int) ∧
      t.flag .v = decide (s.reg d = 0x80) ∧ t.flag .n = getBit (t.reg d) 7 ∧
      t.flag .z = decide (t.reg d = 0) ∧ t.flag .s = (t.flag .n ^^ t.flag .v))

/-- R135, R205, R206, R257: SER, MOV, LDI and SWAP write one register and no flag. -/
def Obligations.RegisterMovesWriteNoFlag : Prop :=
  ∀ (d r : Reg) (k : Byte) (s : State),
    (∃ t, exec (.ser d) s = .next t ∧ Advances 1 { regs := [d] } s t ∧ t.reg d = 0xFF) ∧
    (∃ t, exec (.mov d r) s = .next t ∧ Advances 1 { regs := [d] } s t ∧ t.reg d = s.reg r) ∧
    (∃ t, exec (.ldi d k) s = .next t ∧ Advances 1 { regs := [d] } s t ∧ t.reg d = k) ∧
    (∃ t, exec (.swap d) s = .next t ∧ Advances 1 { regs := [d] } s t ∧
      (t.reg d).toNat = (s.reg d).toNat / 16 + 16 * ((s.reg d).toNat % 16))

/-- R136: after `CP Rd, Rr` the branches decide the order of the two registers: BRLO, BRCS, BRSH, BRCC the unsigned
one, BRLT and BRGE the signed one, BREQ and BRNE equality. -/
def Obligations.CompareThenBranchDecidesOrder : Prop :=
  ∀ (d r : Reg) (s : State) (k : BitVec 7), ∃ t, exec (.cp d r) s = .next t ∧
    (∀ p ∈ [(Instr.brlo k, decide ((s.reg d).toNat < (s.reg r).toNat)),
            (.brcs k, decide ((s.reg d).toNat < (s.reg r).toNat)),
            (.brsh k, decide ((s.reg r).toNat ≤ (s.reg d).toNat)),
            (.brcc k, decide ((s.reg r).toNat ≤ (s.reg d).toNat)),
            (.brlt k, decide ((s.reg d).toInt < (s.reg r).toInt)),
            (.brge k, decide ((s.reg r).toInt ≤ (s.reg d).toInt)),
            (.breq k, decide (s.reg d = s.reg r)),
            (.brne k, decide (s.reg d ≠ s.reg r))],
      ∃ u, exec p.1 t = .next u ∧ u.pc = if p.2 then t.relTarget k.toInt else t.pcAfter 1)

/-- R136: ADD then ADC adds two register pairs, SUB then SBC subtracts them, CP then CPC compares them, with C, V, N, S of
the whole 16-bit operation, and its Z for the subtract and compare chains. (Where the destination's low register is the
other pair's high one, the first step of a chain that writes changes what its second step reads.) -/
def Obligations.MultiByteChainsComputeTheWholeValue : Prop :=
  ∀ (d r : Reg) (s : State),
    (d ≠ nextReg r →
      ∃ t u, exec (.add d r) s = .next t ∧ exec (.adc (nextReg d) (nextReg r)) t = .next u ∧
        u.pair d = s.pair d + s.pair r ∧
        u.flag .c = decide (65536 ≤ (s.pair d).toNat + (s.pair r).toNat) ∧
        u.flag .n = (u.pair d).getLsbD 15 ∧
        u.flag .v = decide ((s.pair d).toInt + (s.pair r).toInt < -32768 ∨
          32767 < (s.pair d).toInt + (s.pair r).toInt) ∧
        u.flag .s = decide ((s.pair d).toInt + (s.pair r).toInt < 0)) ∧
    (d ≠ nextReg r →
      ∃ t u, exec (.sub d r) s = .next t ∧ exec (.sbc (nextReg d) (nextReg r)) t = .next u ∧
        u.pair d = s.pair d - s.pair r ∧ DifferenceFlags (s.pair d) (s.pair r) u) ∧
    (∃ t u, exec (.cp d r) s = .next t ∧ exec (.cpc (nextReg d) (nextReg r)) t = .next u ∧
      u.pair d = s.pair d ∧ DifferenceFlags (s.pair d) (s.pair r) u)

/-! ## Branches (spec/42_branch.md) -/

/-- R150, R151, R185: RJMP goes to `pc + 1 + k` and IJMP to Z, both modulo `2^PC_BITS`; nothing else changes. -/
def Obligations.JumpsGoToTheirTarget : Prop :=
  ∀ (k : BitVec 12) (s : State), s.cfg.pcBits ≤ 22 →
    (∃ t, exec (.rjmp k) s = .next t ∧ OnlyTouches {} s t ∧
      (t.pc.toNat : Int) = ((s.pc.toNat : Int) + 1 + k.toInt) % ((2 ^ s.cfg.pcBits : Nat) : Int)) ∧
    (∃ t, exec .ijmp s = .next t ∧ OnlyTouches {} s t ∧
      t.pc.toNat = (s.pointer .z).toNat % 2 ^ s.cfg.pcBits)

/-- R164, R165: BRBS and BRBC branch on a bit of SREG. -/
def Obligations.BranchOnAStatusBit : Prop :=
  ∀ n : BitNum, BranchesIf (.brbs n) (fun s => s.sreg.getLsbD n.val) ∧
    BranchesIf (.brbc n) (fun s => !s.sreg.getLsbD n.val)

/-- R166 to R183, R187: the eighteen named branches, each on its flag. -/
def Obligations.NamedBranchesTestTheirFlag : Prop :=
  BranchesIf .breq (fun s => s.flag .z) ∧ BranchesIf .brne (fun s => !s.flag .z) ∧
  BranchesIf .brcs (fun s => s.flag .c) ∧ BranchesIf .brcc (fun s => !s.flag .c) ∧
  BranchesIf .brsh (fun s => !s.flag .c) ∧ BranchesIf .brlo (fun s => s.flag .c) ∧
  BranchesIf .brmi (fun s => s.flag .n) ∧ BranchesIf .brpl (fun s => !s.flag .n) ∧
  BranchesIf .brge (fun s => !s.flag .s) ∧ BranchesIf .brlt (fun s => s.flag .s) ∧
  BranchesIf .brhs (fun s => s.flag .h) ∧ BranchesIf .brhc (fun s => !s.flag .h) ∧
  BranchesIf .brts (fun s => s.flag .t) ∧ BranchesIf .brtc (fun s => !s.flag .t) ∧
  BranchesIf .brvs (fun s => s.flag .v) ∧ BranchesIf .brvc (fun s => !s.flag .v) ∧
  BranchesIf .brie (fun s => s.flag .i) ∧ BranchesIf .brid (fun s => !s.flag .i)

/-- R156, R160 to R163, R184: the five skip instructions pass over the next instruction, one word or two, when their
condition holds. SBIC and SBIS read their I/O location once; on a device of the platform the answer is free and that one
read is handed over (log 10), or they stop with what the device raises (log 33), before they look at the next word
(log 34). The address of the next word wraps (log 17). -/
def Obligations.SkipsPassTheNextInstruction : Prop :=
  ∀ (d r : Reg) (a : IoLow) (b : BitNum),
    SkipsIf (.cpse d r) (fun _ => true) (fun s => decide (s.reg d = s.reg r)) (fun _ => {}) (fun _ => []) ∧
    SkipsIf (.sbrc r b) (fun _ => true) (fun s => !(s.reg r).getLsbD b.val) (fun _ => {}) (fun _ => []) ∧
    SkipsIf (.sbrs r b) (fun _ => true) (fun s => (s.reg r).getLsbD b.val) (fun _ => {}) (fun _ => []) ∧
    SkipsIf (.sbic a b) (fun s => !deviceRaises s.cfg s.events (ioOfLow a))
      (fun s => !(ioAnswer (ioOfLow a) s).1.getLsbD b.val)
      (fun s => ioReadTouches s (ioOfLow a) []) (fun s => ioReadEvents s.cfg (ioOfLow a)) ∧
    SkipsIf (.sbis a b) (fun s => !deviceRaises s.cfg s.events (ioOfLow a))
      (fun s => (ioAnswer (ioOfLow a) s).1.getLsbD b.val)
      (fun s => ioReadTouches s (ioOfLow a) []) (fun s => ioReadEvents s.cfg (ioOfLow a)) ∧
    (∀ s : State, deviceRaises s.cfg s.events (ioOfLow a) = true → ∀ i ∈ [Instr.sbic a b, .sbis a b],
      exec i s = .fault (.deviceRaised (.ioRead (ioOfLow a))))

/-- R63, R152, R153: RCALL and ICALL push the address of the next word, the stack being in RAM, and go to their target;
nothing else changes. -/
def Obligations.CallsPushTheReturnAddress : Prop :=
  ∀ (k : BitVec 12) (s : State), s.Inv → s.PushRoom (pcBytes s.cfg) →
    (∃ t, exec (.rcall k) s = .next t ∧
      (t.pc.toNat : Int) = ((s.pc.toNat : Int) + 1 + k.toInt) % ((2 ^ s.cfg.pcBits : Nat) : Int) ∧
      t.sp = s.pushSlot (pcBytes s.cfg) ∧ ReturnPushed (pcBytes s.cfg) (s.pcAfter 1) s t ∧
      OnlyTouches { sp := true, ram := s.pushBytes (pcBytes s.cfg) } s t) ∧
    (∃ t, exec .icall s = .next t ∧
      t.pc.toNat = (s.pointer .z).toNat % 2 ^ s.cfg.pcBits ∧
      t.sp = s.pushSlot (pcBytes s.cfg) ∧ ReturnPushed (pcBytes s.cfg) (s.pcAfter 1) s t ∧
      OnlyTouches { sp := true, ram := s.pushBytes (pcBytes s.cfg) } s t)

/-- R54, R63, R152, R153: over a stack anywhere in the data map RCALL and ICALL push the address of the next word, go to
their target (the one before the pushes) and change nothing else; a byte pushed at a platform's address is handed over
(log 10), one pushed on SREG is a store to it (log 22). They stop where a pushed byte would land on SP's own location,
else at the first slot that is unmapped or whose device raises (the fault's word and this order are logs 13 and 14, the
device logs 33 and 34). -/
def Obligations.CallsOverAnyStack : Prop :=
  ∀ (k : BitVec 12) (s : State), s.Inv →
    ∀ p ∈ [(Instr.rcall k, s.relTarget k.toInt), (.icall, s.indirectTarget)],
      (s.PushesLand (pcBytes s.cfg) (s.pcAfter 1) →
        ∃ t, exec p.1 s = .next t ∧ t.pc = p.2 ∧ PushedAnywhere (pcBytes s.cfg) (s.pcAfter 1) s t) ∧
      PushStops (pcBytes s.cfg) (some (encodeWord p.1)) (s.pcAfter 1) s (exec p.1 s)

/-- R64, R154, R155: RET and RETI take the return address from the stack, which is in RAM, and move SP up by `PC_BYTES`;
RETI sets I and `irq_inhibit`; nothing else changes. -/
def Obligations.ReturnsTakeTheAddressFromTheStack : Prop :=
  ∀ (s : State) (w : Nat), s.cfg.pcBits ≤ 22 → s.ReturnOnStack w →
    (∃ t, exec .ret s = .next t ∧ t.pc.toNat = w % 2 ^ s.cfg.pcBits ∧
      t.sp = s.popSlot (pcBytes s.cfg - 1) ∧ OnlyTouches { sp := true } s t) ∧
    (∃ t, exec .reti s = .next t ∧ t.pc.toNat = w % 2 ^ s.cfg.pcBits ∧
      t.sp = s.popSlot (pcBytes s.cfg - 1) ∧ t.flag .i = true ∧ t.irqInhibit = true ∧
      OnlyTouches { sp := true, flags := [.i], inhibit := true } s t)

/-- R62, R64, R154, R155: over a stack anywhere in the data map RET and RETI pop the return address into the program
counter and move SP by `PC_BYTES`; RETI sets I and `irq_inhibit`; nothing else changes. A popped byte that is not sure (a
RAM byte nothing has written, log 5; an answer of the platform, log 10) is free, and SP's own locations read as the SP
of that pop (log 26). They stop at the first slot that is unmapped or whose device raises (logs 33, 34). -/
def Obligations.ReturnsOverAnyStack : Prop :=
  ∀ s : State,
    ((∀ j < pcBytes s.cfg, Completes s.cfg (s.popEvents j) (s.popSlot j)) →
      (∃ t, exec .ret s = .next t ∧ PoppedAnywhere (pcBytes s.cfg) s t ∧
        OnlyTouches (s.popTouches (pcBytes s.cfg)) s t) ∧
      (∃ t, exec .reti s = .next t ∧ PoppedAnywhere (pcBytes s.cfg) s t ∧ t.flag .i = true ∧ t.irqInhibit = true ∧
        OnlyTouches { s.popTouches (pcBytes s.cfg) with flags := [.i], inhibit := true } s t)) ∧
    (∀ n < pcBytes s.cfg, (∀ j < n, Completes s.cfg (s.popEvents j) (s.popSlot j)) →
      ∀ i ∈ [Instr.ret, .reti], AccessStops s.cfg (s.popEvents n) (s.popSlot n) .ioRead (exec i s))

/-- R152, R154: a call and a RET at its target come back to the word after the call with SP as before. -/
def Obligations.CallThenReturnComesBack : Prop :=
  ∀ (k : BitVec 12) (s : State), s.Inv → s.PushRoom (pcBytes s.cfg) → ∀ i ∈ [Instr.rcall k, .icall],
    ∃ t u, exec i s = .next t ∧ exec .ret t = .next u ∧ u.pc = s.pcAfter 1 ∧ u.sp = s.sp ∧
      OnlyTouches { ram := s.pushBytes (pcBytes s.cfg) } s u

/-- R308, R311: interrupt entry and a RETI come back to the interrupted address with SP and the flags as before, I
being set again; beside the pushed bytes only `irq_inhibit`, `sleeping` and the events handed over change. -/
def Obligations.InterruptThenRetiComesBack : Prop :=
  ∀ (v : Nat) (s : State), s.Inv → s.flag .i = true → s.PushRoom (pcBytes s.cfg) →
    ∃ t u, takeInterrupt v s = .ok t ∧ exec .reti t = .next u ∧ u.pc = s.pc ∧ u.sp = s.sp ∧ u.sreg = s.sreg ∧
      u.irqInhibit = true ∧
      OnlyTouches { ram := s.pushBytes (pcBytes s.cfg), inhibit := true, sleeping := true, events := true } s u

/-! ## Data transfer (spec/43_data_transfer.md) -/

/-- R200, R203, R207, R208, R211, R214, R215, R218: the loads that leave their pointer alone. A byte that is not sure is
a free value (logs 5 and 10); they stop at an unmapped address and with what a device raises (logs 33, 34). -/
def Obligations.PlainLoadsReadTheDataSpace : Prop :=
  ∀ (d : Reg) (k : Word) (q : BitVec 6),
    LoadsPlainly (.lds d k) 2 (fun _ => k) d ∧
    LoadsPlainly (.ldX d) 1 (fun s => s.pair 26) d ∧
    LoadsPlainly (.ldY d) 1 (fun s => s.pair 28) d ∧
    LoadsPlainly (.ldZ d) 1 (fun s => s.pair 30) d ∧
    LoadsPlainly (.lddY d q) 1 (fun s => BitVec.ofNat 16 ((s.pair 28).toNat + q.toNat)) d ∧
    LoadsPlainly (.lddZ d q) 1 (fun s => BitVec.ofNat 16 ((s.pair 30).toNat + q.toNat)) d

/-- R201, R202, R209, R210, R212, R213, R216, R217: the loads that move their pointer. A byte that is not sure is a free
value (logs 5 and 10); they stop at an unmapped address and with what a device raises (logs 33, 34). -/
def Obligations.MovingLoadsReadAndMoveThePointer : Prop :=
  ∀ d : Reg,
    LoadsMoving (.ldXInc d) .postIncrement .x d ∧ LoadsMoving (.ldXDec d) .preDecrement .x d ∧
    LoadsMoving (.ldYInc d) .postIncrement .y d ∧ LoadsMoving (.ldYDec d) .preDecrement .y d ∧
    LoadsMoving (.ldZInc d) .postIncrement .z d ∧ LoadsMoving (.ldZDec d) .preDecrement .z d

/-- R200, R203, R219, R220, R223, R226, R227, R230: the stores that leave their pointer alone. A store
to a device of the platform or to `DATA_EXTRA` is handed over (log 10); it stops at an unmapped address and with what
the device raises (logs 33, 34). -/
def Obligations.PlainStoresWriteTheDataSpace : Prop :=
  ∀ (r : Reg) (k : Word) (q : BitVec 6),
    StoresPlainly (.sts k r) 2 (fun _ => k) r ∧
    StoresPlainly (.stX r) 1 (fun s => s.pair 26) r ∧
    StoresPlainly (.stY r) 1 (fun s => s.pair 28) r ∧
    StoresPlainly (.stZ r) 1 (fun s => s.pair 30) r ∧
    StoresPlainly (.stdY q r) 1 (fun s => BitVec.ofNat 16 ((s.pair 28).toNat + q.toNat)) r ∧
    StoresPlainly (.stdZ q r) 1 (fun s => BitVec.ofNat 16 ((s.pair 30).toNat + q.toNat)) r

/-- R201, R202, R221, R222, R224, R225, R228, R229: the stores that move their pointer. A store to a device of the
platform or to `DATA_EXTRA` is handed over (log 10); it stops at an unmapped address and with what the device raises
(logs 33, 34). -/
def Obligations.MovingStoresWriteAndMoveThePointer : Prop :=
  ∀ r : Reg,
    StoresMoving (.stXInc r) .postIncrement .x r ∧ StoresMoving (.stXDec r) .preDecrement .x r ∧
    StoresMoving (.stYInc r) .postIncrement .y r ∧ StoresMoving (.stYDec r) .preDecrement .y r ∧
    StoresMoving (.stZInc r) .postIncrement .z r ∧ StoresMoving (.stZDec r) .preDecrement .z r

/-- R204: a moving form raises `UndefinedForm`, before any state changes, exactly when its data register is one of its
own pointer's or its address is the data address of one of them; the plain and displaced forms never do. The word of
the fault is the one the encoder gives (log 13). -/
def Obligations.UndefinedFormsAreTheOwnPointerOnes : Prop :=
  (∀ (d : Reg) (s : State), ∀ p ∈ [
      (Instr.ldXInc d, PointerMove.postIncrement, Pointer.x), (.ldXDec d, .preDecrement, .x),
      (.ldYInc d, .postIncrement, .y), (.ldYDec d, .preDecrement, .y),
      (.ldZInc d, .postIncrement, .z), (.ldZDec d, .preDecrement, .z),
      (.stXInc d, .postIncrement, .x), (.stXDec d, .preDecrement, .x),
      (.stYInc d, .postIncrement, .y), (.stYDec d, .preDecrement, .y),
      (.stZInc d, .postIncrement, .z), (.stZDec d, .preDecrement, .z)],
    exec p.1 s = .fault (.undefinedForm s.pc (some (encodeWord p.1))) ↔
      MovingFormUndefined p.2.2 d (p.2.1.address (s.pointer p.2.2)) s) ∧
  (∀ (d : Reg) (q : BitVec 6) (s : State) (w : Option Word), ∀ i ∈ [
      Instr.ldX d, .ldY d, .ldZ d, .lddY d q, .lddZ d q, .stX d, .stY d, .stZ d, .stdY q d, .stdZ q d],
    exec i s ≠ .fault (.undefinedForm s.pc w))

/-- R59, R231: LPM reads the program-memory byte at the byte address in Z into R0: the word `Z[15:1]`, its low byte
when `Z[0]` is 0; beyond program memory it stops. -/
def Obligations.LpmReadsAProgramByte : Prop :=
  ∀ s : State,
    ((s.pointer .z).toNat / 2 < s.cfg.flashWords →
      ∃ t p, progWord s (BitVec.ofNat 22 ((s.pointer .z).toNat / 2)) = .ok p ∧
        exec .lpm s = .next t ∧ Advances 1 { regs := [0] } s t ∧
        (t.reg 0).toNat = if (s.pointer .z).toNat % 2 = 0 then p.toNat % 256 else p.toNat / 256) ∧
    (s.cfg.flashWords ≤ (s.pointer .z).toNat / 2 →
      exec .lpm s = .fault (.fetchOutOfRange (BitVec.ofNat 22 ((s.pointer .z).toNat / 2))))

/-- R55, R56, R232, R233: IN reads an I/O location into a register, once, and OUT writes one, SREG and SP's bytes among
them. On a device of the platform the answer is free and the access is handed over (log 10), or they stop with what the
device raises; it raises on the access that its parameter numbers, SREG, SP and plain storage never do (log 33). -/
def Obligations.InAndOutMoveOneIoByte : Prop :=
  ∀ (d : Reg) (a : IoAddr) (s : State),
    (deviceRaises s.cfg s.events a = false →
      (∃ t, exec (.inp d a) s = .next t ∧ Advances 1 (ioReadTouches s a [d]) s t ∧
        t.reg d = (ioAnswer a s).1 ∧ (∀ v, s.ioByte a = some v → t.reg d = v) ∧
        ReadsOnly (ioReadEvents s.cfg a) s t ∧
        (a.val = s.cfg.ioSreg → t.reg d = s.sreg) ∧
        (s.cfg.WF → a.val = s.cfg.ioSpl → t.reg d = lowByte s.sp) ∧
        (s.cfg.WF → a.val = s.cfg.ioSph → s.cfg.spWidth = .bits16 → t.reg d = highByte s.sp) ∧
        (s.cfg.WF → a.val = s.cfg.ioSph → s.cfg.spWidth = .bits8 → t.reg d = 0x00)) ∧
      (∃ t, exec (.out a d) s = .next t ∧ Advances 1 (ioWriteTouches s.cfg a) s t ∧ IoWritten a (s.reg d) s t)) ∧
    (deviceRaises s.cfg s.events a = true →
      exec (.inp d a) s = .fault (.deviceRaised (.ioRead a)) ∧
      exec (.out a d) s = .fault (.deviceRaised (.ioWrite a (s.reg d)))) ∧
    (deviceRaises s.cfg s.events a = true ↔
      a.val ≠ s.cfg.ioSreg ∧ a.val ≠ s.cfg.ioSpl ∧ a.val ≠ s.cfg.ioSph ∧
      s.cfg.ioDevice = .platform (some (s.events.countP PlatformEvent.isDeviceAccess)))

/-- R57, R258, R259: SBI and CBI change one bit of one I/O location: of the stored byte where the device is plain
storage, else by handing the bit to the platform (log 10), or they stop with what the device raises (log 33). -/
def Obligations.IoBitInstructionsChangeOneBit : Prop :=
  ∀ (a : IoLow) (b : BitNum) (s : State), s.cfg.WF → ∀ p ∈ [(Instr.sbi a b, true), (.cbi a b, false)],
    (s.cfg.ioDevice = .plainStorage →
      ∃ t, exec p.1 s = .next t ∧ Advances 1 { io := [ioOfLow a] } s t ∧
        ∀ c : BitNum, t.io[(ioOfLow a).val].getLsbD c.val =
          if c = b then p.2 else s.io[(ioOfLow a).val].getLsbD c.val) ∧
    (s.cfg.ioDevice ≠ .plainStorage → deviceRaises s.cfg s.events (ioOfLow a) = false →
      ∃ t, exec p.1 s = .next t ∧ Advances 1 { events := true } s t ∧
        t.events = .ioBitWrite a b p.2 :: s.events) ∧
    (deviceRaises s.cfg s.events (ioOfLow a) = true → exec p.1 s = .fault (.deviceRaised (.ioBitWrite a b p.2)))

/-- R54, R61, R234: PUSH stores at SP and then moves SP down by one; it stops where SP points at its own I/O location
(with an 8-bit SP too, log 25), and where the store does not complete: at an unmapped SP, or with what a device raises
(logs 33, 34). A byte pushed at a platform's address is handed over (log 10), one pushed on SREG is a store to it
(log 22). -/
def Obligations.PushStoresAndMovesSpDown : Prop :=
  ∀ (r : Reg) (s : State),
    (isSpLocation s.cfg s.sp = true →
      exec (.push r) s = .fault (.undefinedForm s.pc (some (encodeWord (.push r))))) ∧
    (isSpLocation s.cfg s.sp = false → AccessStops s.cfg s.events s.sp (.ioWrite · (s.reg r)) (exec (.push r) s)) ∧
    (isSpLocation s.cfg s.sp = false → Completes s.cfg s.events s.sp →
      ∃ t, exec (.push r) s = .next t ∧ Advances 1 { storeTouches s.cfg s.sp with sp := true } s t ∧
        Stored s.sp (s.reg r) s t ∧ t.sp = s.pushSlot 1)

/-- R62, R235: POP moves SP up by one and loads from there; where that access does not complete it stops, with SP as it
was: at an unmapped address, or with what a device raises (logs 33, 34). A byte that is not sure (a RAM byte nothing has
written, log 5; an answer of the platform, log 10) is free, and SP's own locations read as the new SP (log 26). -/
def Obligations.PopMovesSpUpAndLoads : Prop :=
  ∀ (d : Reg) (s : State),
    (Completes s.cfg s.events (s.popSlot 0) →
      ∃ t, exec (.pop d) s = .next t ∧ t.sp = s.popSlot 0 ∧
        Loaded (s.popSlot 0) d { s with sp := s.popSlot 0 } t ∧
        Advances 1 { loadTouches { s with sp := s.popSlot 0 } (s.popSlot 0) [d] with sp := true } s t) ∧
    AccessStops s.cfg s.events (s.popSlot 0) .ioRead (exec (.pop d) s)

/-! ## Bits (spec/44_bit_and_bit_test.md) -/

/-- R250, R251, R252, R254: LSL and ROL shift left by one and write C, Z, N, V, S, H. -/
def Obligations.LeftShiftsWriteResultAndFlags : Prop :=
  ∀ (d : Reg) (s : State), ∀ p ∈ [(Instr.lsl d, false), (.rol d, s.flag .c)],
    ∃ t, exec p.1 s = .next t ∧ Advances 1 { regs := [d], flags := sixFlags } s t ∧
      (t.reg d).toNat = (2 * (s.reg d).toNat + p.2.toNat) % 256 ∧
      ShiftFlags (getBit (s.reg d) 7) (t.reg d) t ∧ t.flag .s = (t.flag .n ^^ t.flag .v) ∧
      t.flag .h = getBit (s.reg d) 3

/-- R250, R251, R253, R255, R256: LSR, ROR and ASR shift right by one and write C, Z, N, V, and S under
`SHIFT_WRITES_S`; H stays. -/
def Obligations.RightShiftsWriteResultAndFlags : Prop :=
  ∀ (d : Reg) (s : State),
    ∀ p ∈ [(Instr.lsr d, false), (.ror d, s.flag .c), (.asr d, getBit (s.reg d) 7)],
    ∃ t, exec p.1 s = .next t ∧ Advances 1 { regs := [d], flags := fiveFlags } s t ∧
      (t.reg d).toNat = (s.reg d).toNat / 2 + 128 * p.2.toNat ∧
      ShiftFlags (getBit (s.reg d) 0) (t.reg d) t ∧
      t.flag .s = if s.cfg.shiftWritesS then (t.flag .n ^^ t.flag .v) else s.flag .s

/-- R280: the laws of the shifts, of SWAP, of the T bit and of BSET and BCLR. -/
def Obligations.ShiftAndBitLaws : Prop :=
  (∀ (d : Reg) (s : State),
    (∃ t, exec (.lsl d) s = .next t ∧
      (t.reg d).toNat = 2 * (s.reg d).toNat % 256 ∧ (t.flag .c).toNat = 2 * (s.reg d).toNat / 256) ∧
    (∃ t, exec (.lsr d) s = .next t ∧
      (t.reg d).toNat = (s.reg d).toNat / 2 ∧ (t.flag .c).toNat = (s.reg d).toNat % 2) ∧
    (∃ t, exec (.asr d) s = .next t ∧
      (t.reg d).toInt = (s.reg d).toInt.fdiv 2 ∧ ((t.flag .c).toNat : Int) = (s.reg d).toInt.fmod 2) ∧
    (∃ t u, exec (.rol d) s = .next t ∧ exec (.ror d) t = .next u ∧
      u.reg d = s.reg d ∧ u.flag .c = s.flag .c) ∧
    (∃ t u, exec (.ror d) s = .next t ∧ exec (.rol d) t = .next u ∧
      u.reg d = s.reg d ∧ u.flag .c = s.flag .c) ∧
    (∃ t u, exec (.lsl d) s = .next t ∧ exec (.rol (nextReg d)) t = .next u ∧
      (u.pair d).toNat = 2 * (s.pair d).toNat % 65536) ∧
    (∃ t u, exec (.lsr (nextReg d)) s = .next t ∧ exec (.ror d) t = .next u ∧
      (u.pair d).toNat = (s.pair d).toNat / 2) ∧
    (∃ t u, exec (.swap d) s = .next t ∧ exec (.swap d) t = .next u ∧ u.reg d = s.reg d)) ∧
  (∀ (d r : Reg) (b : BitNum) (s : State),
    ∃ t u, exec (.bst r b) s = .next t ∧ exec (.bld d b) t = .next u ∧
      OnlyTouches { regs := [d], flags := [.t] } s u ∧
      ∀ c : BitNum, getBit (u.reg d) c = if c = b then getBit (s.reg r) b else getBit (s.reg d) c) ∧
  (∀ (n : BitNum) (s : State),
    ∃ t u, exec (.bset n) s = .next t ∧ exec (.bclr n) t = .next u ∧
      ∀ m : BitNum, getBit u.sreg m = if m = n then false else getBit s.sreg m)

/-- R260, R261: BST copies a register bit to T; BLD copies T to one bit of a register and keeps the other seven. -/
def Obligations.BitTransfersThroughT : Prop :=
  ∀ (r : Reg) (b : BitNum) (s : State),
    (∃ t, exec (.bst r b) s = .next t ∧ Advances 1 { flags := [.t] } s t ∧
      t.flag .t = (s.reg r).getLsbD b.val) ∧
    (∃ t, exec (.bld r b) s = .next t ∧ Advances 1 { regs := [r] } s t ∧
      ∀ c : BitNum, (t.reg r).getLsbD c.val = if c = b then s.flag .t else (s.reg r).getLsbD c.val)

/-- R262, R263, R270: BSET and BCLR write the one bit of SREG they name; `BSET 7` sets `irq_inhibit` too. -/
def Obligations.StatusBitInstructionsWriteOneBit : Prop :=
  ∀ (n : BitNum) (s : State),
    (∃ t, exec (.bset n) s = .next t ∧
      Advances 1 { flags := allFlags.filter (·.bit == n), inhibit := n == 7 } s t ∧
      (∀ m : BitNum, t.sreg.getLsbD m.val = if m = n then true else s.sreg.getLsbD m.val) ∧
      (n = 7 → t.irqInhibit = true)) ∧
    (∃ t, exec (.bclr n) s = .next t ∧ Advances 1 { flags := allFlags.filter (·.bit == n) } s t ∧
      ∀ m : BitNum, t.sreg.getLsbD m.val = if m = n then false else s.sreg.getLsbD m.val)

/-- R264 to R279: the sixteen named forms are one word each, another name of BSET or BCLR with their bit, and write
their flag; SEI sets `irq_inhibit` too. -/
def Obligations.NamedFlagInstructionsWriteTheirFlag : Prop :=
  WritesFlag .sec 0x9408 .c true false ∧ WritesFlag .clc 0x9488 .c false false ∧
  WritesFlag .sez 0x9418 .z true false ∧ WritesFlag .clz 0x9498 .z false false ∧
  WritesFlag .sen 0x9428 .n true false ∧ WritesFlag .cln 0x94A8 .n false false ∧
  WritesFlag .sev 0x9438 .v true false ∧ WritesFlag .clv 0x94B8 .v false false ∧
  WritesFlag .ses 0x9448 .s true false ∧ WritesFlag .cls 0x94C8 .s false false ∧
  WritesFlag .seh 0x9458 .h true false ∧ WritesFlag .clh 0x94D8 .h false false ∧
  WritesFlag .set 0x9468 .t true false ∧ WritesFlag .clt 0x94E8 .t false false ∧
  WritesFlag .sei 0x9478 .i true true ∧ WritesFlag .cli 0x94F8 .i false false

/-! ## MCU control (spec/45_mcu_control.md) -/

/-- R290 to R293: BREAK and SLEEP by their parameters, NOP, and WDR, which only tells the platform
(logs 15 and 16). -/
def Obligations.McuControlByTheParameters : Prop :=
  ∀ s : State,
    (s.cfg.breakMode = .refuse → exec .brk s = .refused (.refused s.pc "BREAK")) ∧
    (s.cfg.breakMode = .nop → ∃ t, exec .brk s = .next t ∧ Advances 1 {} s t) ∧
    (s.cfg.breakMode = .stop →
      ∃ t, exec .brk s = .next t ∧ Advances 1 { stopped := true } s t ∧ t.stopped = true) ∧
    (∃ t, exec .nop s = .next t ∧ Advances 1 {} s t) ∧
    (s.cfg.sleepMode = .nop → ∃ t, exec .sleep s = .next t ∧ Advances 1 {} s t) ∧
    (s.cfg.sleepMode = .hold →
      ∃ t, exec .sleep s = .next t ∧ Advances 1 { sleeping := true } s t ∧ t.sleeping = true) ∧
    (∃ t, exec .wdr s = .next t ∧ Advances 1 { events := true } s t ∧ t.events = .wdr :: s.events)

/-! ## Over all instructions -/

/-- R92: an alias row never changes what a word does: every instruction means what its base instruction means. -/
def Obligations.AliasMeansWhatItsBaseMeans : Prop :=
  ∀ (i : Instr) (s : State), exec i s = exec i.base s

/-- R27: an instruction changes no flag but those its row lists: every other flag keeps its value. The instructions
that write a byte of the data or I/O space are left out: their target may be SREG itself (R28). In a configuration
that obeys its constraints no I/O location of SBI and CBI is SREG (R57). -/
def Obligations.OnlyListedFlagsChange : Prop :=
  ∀ (i : Instr) (s t : State) (f : Flag), s.cfg.WF → exec i s = .next t → writesData i = false →
    f ∉ flagsWritten s.cfg i → t.flag f = s.flag f

/-- R345: after every instruction whose row lists both N and S, S is N xor V. -/
def Obligations.SignedFlagFollowsArithmetic : Prop :=
  ∀ (i : Instr) (s t : State), exec i s = .next t → Flag.n ∈ flagsWritten s.cfg i → Flag.s ∈ flagsWritten s.cfg i →
    t.flag .s = (t.flag .n ^^ t.flag .v)
end

