-- ==== Sys2Proof/Laws/State.lean ====
section
/-! SUPPORT. One lemma per field per update of the state, true by rfl and tagged for simp, so that no later proof
unfolds a record update; then what a register, a pair and a flag read after an update. -/

namespace Sys2Proof.Machine

@[simp] theorem State.setReg_cfg (s : State) (i : Reg) (v : Byte) : (s.setReg i v).cfg = s.cfg := rfl
@[simp] theorem State.setReg_regs (s : State) (i : Reg) (v : Byte) : (s.setReg i v).regs = s.regs.set i.val v := rfl
@[simp] theorem State.setReg_pc (s : State) (i : Reg) (v : Byte) : (s.setReg i v).pc = s.pc := rfl
@[simp] theorem State.setReg_sreg (s : State) (i : Reg) (v : Byte) : (s.setReg i v).sreg = s.sreg := rfl
@[simp] theorem State.setReg_sp (s : State) (i : Reg) (v : Byte) : (s.setReg i v).sp = s.sp := rfl
@[simp] theorem State.setReg_ram (s : State) (i : Reg) (v : Byte) : (s.setReg i v).ram = s.ram := rfl
@[simp] theorem State.setReg_io (s : State) (i : Reg) (v : Byte) : (s.setReg i v).io = s.io := rfl
@[simp] theorem State.setReg_flash (s : State) (i : Reg) (v : Byte) : (s.setReg i v).flash = s.flash := rfl
@[simp] theorem State.setReg_irqInhibit (s : State) (i : Reg) (v : Byte) : (s.setReg i v).irqInhibit = s.irqInhibit := rfl
@[simp] theorem State.setReg_sleeping (s : State) (i : Reg) (v : Byte) : (s.setReg i v).sleeping = s.sleeping := rfl
@[simp] theorem State.setReg_stopped (s : State) (i : Reg) (v : Byte) : (s.setReg i v).stopped = s.stopped := rfl
@[simp] theorem State.setReg_inputs (s : State) (i : Reg) (v : Byte) : (s.setReg i v).inputs = s.inputs := rfl
@[simp] theorem State.setReg_events (s : State) (i : Reg) (v : Byte) : (s.setReg i v).events = s.events := rfl
@[simp] theorem State.setReg_draws (s : State) (i : Reg) (v : Byte) : (s.setReg i v).draws = s.draws := rfl

@[simp] theorem State.setFlag_cfg (s : State) (f : Flag) (b : Bool) : (s.setFlag f b).cfg = s.cfg := rfl
@[simp] theorem State.setFlag_regs (s : State) (f : Flag) (b : Bool) : (s.setFlag f b).regs = s.regs := rfl
@[simp] theorem State.setFlag_pc (s : State) (f : Flag) (b : Bool) : (s.setFlag f b).pc = s.pc := rfl
@[simp] theorem State.setFlag_sreg (s : State) (f : Flag) (b : Bool) : (s.setFlag f b).sreg = putFlag s.sreg f b := rfl
@[simp] theorem State.setFlag_sp (s : State) (f : Flag) (b : Bool) : (s.setFlag f b).sp = s.sp := rfl
@[simp] theorem State.setFlag_ram (s : State) (f : Flag) (b : Bool) : (s.setFlag f b).ram = s.ram := rfl
@[simp] theorem State.setFlag_io (s : State) (f : Flag) (b : Bool) : (s.setFlag f b).io = s.io := rfl
@[simp] theorem State.setFlag_flash (s : State) (f : Flag) (b : Bool) : (s.setFlag f b).flash = s.flash := rfl
@[simp] theorem State.setFlag_irqInhibit (s : State) (f : Flag) (b : Bool) : (s.setFlag f b).irqInhibit = s.irqInhibit := rfl
@[simp] theorem State.setFlag_sleeping (s : State) (f : Flag) (b : Bool) : (s.setFlag f b).sleeping = s.sleeping := rfl
@[simp] theorem State.setFlag_stopped (s : State) (f : Flag) (b : Bool) : (s.setFlag f b).stopped = s.stopped := rfl
@[simp] theorem State.setFlag_inputs (s : State) (f : Flag) (b : Bool) : (s.setFlag f b).inputs = s.inputs := rfl
@[simp] theorem State.setFlag_events (s : State) (f : Flag) (b : Bool) : (s.setFlag f b).events = s.events := rfl
@[simp] theorem State.setFlag_draws (s : State) (f : Flag) (b : Bool) : (s.setFlag f b).draws = s.draws := rfl

@[simp] theorem State.advance_cfg (s : State) (n : Nat) : (s.advance n).cfg = s.cfg := rfl
@[simp] theorem State.advance_regs (s : State) (n : Nat) : (s.advance n).regs = s.regs := rfl
@[simp] theorem State.advance_pc (s : State) (n : Nat) : (s.advance n).pc = s.pcAfter n := rfl
@[simp] theorem State.advance_sreg (s : State) (n : Nat) : (s.advance n).sreg = s.sreg := rfl
@[simp] theorem State.advance_sp (s : State) (n : Nat) : (s.advance n).sp = s.sp := rfl
@[simp] theorem State.advance_ram (s : State) (n : Nat) : (s.advance n).ram = s.ram := rfl
@[simp] theorem State.advance_io (s : State) (n : Nat) : (s.advance n).io = s.io := rfl
@[simp] theorem State.advance_flash (s : State) (n : Nat) : (s.advance n).flash = s.flash := rfl
@[simp] theorem State.advance_irqInhibit (s : State) (n : Nat) : (s.advance n).irqInhibit = s.irqInhibit := rfl
@[simp] theorem State.advance_sleeping (s : State) (n : Nat) : (s.advance n).sleeping = s.sleeping := rfl
@[simp] theorem State.advance_stopped (s : State) (n : Nat) : (s.advance n).stopped = s.stopped := rfl
@[simp] theorem State.advance_inputs (s : State) (n : Nat) : (s.advance n).inputs = s.inputs := rfl
@[simp] theorem State.advance_events (s : State) (n : Nat) : (s.advance n).events = s.events := rfl
@[simp] theorem State.advance_draws (s : State) (n : Nat) : (s.advance n).draws = s.draws := rfl

@[simp] theorem State.emit_cfg (s : State) (e : PlatformEvent) : (s.emit e).cfg = s.cfg := rfl
@[simp] theorem State.emit_regs (s : State) (e : PlatformEvent) : (s.emit e).regs = s.regs := rfl
@[simp] theorem State.emit_pc (s : State) (e : PlatformEvent) : (s.emit e).pc = s.pc := rfl
@[simp] theorem State.emit_sreg (s : State) (e : PlatformEvent) : (s.emit e).sreg = s.sreg := rfl
@[simp] theorem State.emit_sp (s : State) (e : PlatformEvent) : (s.emit e).sp = s.sp := rfl
@[simp] theorem State.emit_ram (s : State) (e : PlatformEvent) : (s.emit e).ram = s.ram := rfl
@[simp] theorem State.emit_io (s : State) (e : PlatformEvent) : (s.emit e).io = s.io := rfl
@[simp] theorem State.emit_flash (s : State) (e : PlatformEvent) : (s.emit e).flash = s.flash := rfl
@[simp] theorem State.emit_irqInhibit (s : State) (e : PlatformEvent) : (s.emit e).irqInhibit = s.irqInhibit := rfl
@[simp] theorem State.emit_sleeping (s : State) (e : PlatformEvent) : (s.emit e).sleeping = s.sleeping := rfl
@[simp] theorem State.emit_stopped (s : State) (e : PlatformEvent) : (s.emit e).stopped = s.stopped := rfl
@[simp] theorem State.emit_inputs (s : State) (e : PlatformEvent) : (s.emit e).inputs = s.inputs := rfl
@[simp] theorem State.emit_events (s : State) (e : PlatformEvent) : (s.emit e).events = e :: s.events := rfl
@[simp] theorem State.emit_draws (s : State) (e : PlatformEvent) : (s.emit e).draws = s.draws := rfl

@[simp] theorem State.afterDraw_cfg (s : State) : (s.afterDraw).cfg = s.cfg := rfl
@[simp] theorem State.afterDraw_regs (s : State) : (s.afterDraw).regs = s.regs := rfl
@[simp] theorem State.afterDraw_pc (s : State) : (s.afterDraw).pc = s.pc := rfl
@[simp] theorem State.afterDraw_sreg (s : State) : (s.afterDraw).sreg = s.sreg := rfl
@[simp] theorem State.afterDraw_sp (s : State) : (s.afterDraw).sp = s.sp := rfl
@[simp] theorem State.afterDraw_ram (s : State) : (s.afterDraw).ram = s.ram := rfl
@[simp] theorem State.afterDraw_io (s : State) : (s.afterDraw).io = s.io := rfl
@[simp] theorem State.afterDraw_flash (s : State) : (s.afterDraw).flash = s.flash := rfl
@[simp] theorem State.afterDraw_irqInhibit (s : State) : (s.afterDraw).irqInhibit = s.irqInhibit := rfl
@[simp] theorem State.afterDraw_sleeping (s : State) : (s.afterDraw).sleeping = s.sleeping := rfl
@[simp] theorem State.afterDraw_stopped (s : State) : (s.afterDraw).stopped = s.stopped := rfl
@[simp] theorem State.afterDraw_inputs (s : State) : (s.afterDraw).inputs = s.inputs := rfl
@[simp] theorem State.afterDraw_events (s : State) : (s.afterDraw).events = s.events := rfl
@[simp] theorem State.afterDraw_draws (s : State) : (s.afterDraw).draws = s.draws + 1 := rfl

@[simp] theorem State.setSpLow_cfg (s : State) (v : Byte) : (s.setSpLow v).cfg = s.cfg := rfl
@[simp] theorem State.setSpLow_regs (s : State) (v : Byte) : (s.setSpLow v).regs = s.regs := rfl
@[simp] theorem State.setSpLow_pc (s : State) (v : Byte) : (s.setSpLow v).pc = s.pc := rfl
@[simp] theorem State.setSpLow_sreg (s : State) (v : Byte) : (s.setSpLow v).sreg = s.sreg := rfl
@[simp] theorem State.setSpLow_sp (s : State) (v : Byte) : (s.setSpLow v).sp = wordOfBytes v (highByte s.sp) := rfl
@[simp] theorem State.setSpLow_ram (s : State) (v : Byte) : (s.setSpLow v).ram = s.ram := rfl
@[simp] theorem State.setSpLow_io (s : State) (v : Byte) : (s.setSpLow v).io = s.io := rfl
@[simp] theorem State.setSpLow_flash (s : State) (v : Byte) : (s.setSpLow v).flash = s.flash := rfl
@[simp] theorem State.setSpLow_irqInhibit (s : State) (v : Byte) : (s.setSpLow v).irqInhibit = s.irqInhibit := rfl
@[simp] theorem State.setSpLow_sleeping (s : State) (v : Byte) : (s.setSpLow v).sleeping = s.sleeping := rfl
@[simp] theorem State.setSpLow_stopped (s : State) (v : Byte) : (s.setSpLow v).stopped = s.stopped := rfl
@[simp] theorem State.setSpLow_inputs (s : State) (v : Byte) : (s.setSpLow v).inputs = s.inputs := rfl
@[simp] theorem State.setSpLow_events (s : State) (v : Byte) : (s.setSpLow v).events = s.events := rfl
@[simp] theorem State.setSpLow_draws (s : State) (v : Byte) : (s.setSpLow v).draws = s.draws := rfl

@[simp] theorem State.setPair_cfg (s : State) (i : Reg) (v : Word) : (s.setPair i v).cfg = s.cfg := rfl
@[simp] theorem State.setPair_pc (s : State) (i : Reg) (v : Word) : (s.setPair i v).pc = s.pc := rfl
@[simp] theorem State.setPair_sreg (s : State) (i : Reg) (v : Word) : (s.setPair i v).sreg = s.sreg := rfl
@[simp] theorem State.setPair_sp (s : State) (i : Reg) (v : Word) : (s.setPair i v).sp = s.sp := rfl
@[simp] theorem State.setPair_ram (s : State) (i : Reg) (v : Word) : (s.setPair i v).ram = s.ram := rfl
@[simp] theorem State.setPair_io (s : State) (i : Reg) (v : Word) : (s.setPair i v).io = s.io := rfl
@[simp] theorem State.setPair_flash (s : State) (i : Reg) (v : Word) : (s.setPair i v).flash = s.flash := rfl
@[simp] theorem State.setPair_irqInhibit (s : State) (i : Reg) (v : Word) : (s.setPair i v).irqInhibit = s.irqInhibit := rfl
@[simp] theorem State.setPair_sleeping (s : State) (i : Reg) (v : Word) : (s.setPair i v).sleeping = s.sleeping := rfl
@[simp] theorem State.setPair_stopped (s : State) (i : Reg) (v : Word) : (s.setPair i v).stopped = s.stopped := rfl
@[simp] theorem State.setPair_inputs (s : State) (i : Reg) (v : Word) : (s.setPair i v).inputs = s.inputs := rfl
@[simp] theorem State.setPair_events (s : State) (i : Reg) (v : Word) : (s.setPair i v).events = s.events := rfl
@[simp] theorem State.setPair_draws (s : State) (i : Reg) (v : Word) : (s.setPair i v).draws = s.draws := rfl

@[simp] theorem State.setPointer_cfg (s : State) (p : Pointer) (v : Word) : (s.setPointer p v).cfg = s.cfg := rfl
@[simp] theorem State.setPointer_pc (s : State) (p : Pointer) (v : Word) : (s.setPointer p v).pc = s.pc := rfl
@[simp] theorem State.setPointer_sreg (s : State) (p : Pointer) (v : Word) : (s.setPointer p v).sreg = s.sreg := rfl
@[simp] theorem State.setPointer_sp (s : State) (p : Pointer) (v : Word) : (s.setPointer p v).sp = s.sp := rfl
@[simp] theorem State.setPointer_ram (s : State) (p : Pointer) (v : Word) : (s.setPointer p v).ram = s.ram := rfl
@[simp] theorem State.setPointer_io (s : State) (p : Pointer) (v : Word) : (s.setPointer p v).io = s.io := rfl
@[simp] theorem State.setPointer_flash (s : State) (p : Pointer) (v : Word) : (s.setPointer p v).flash = s.flash := rfl
@[simp] theorem State.setPointer_irqInhibit (s : State) (p : Pointer) (v : Word) : (s.setPointer p v).irqInhibit = s.irqInhibit := rfl
@[simp] theorem State.setPointer_sleeping (s : State) (p : Pointer) (v : Word) : (s.setPointer p v).sleeping = s.sleeping := rfl
@[simp] theorem State.setPointer_stopped (s : State) (p : Pointer) (v : Word) : (s.setPointer p v).stopped = s.stopped := rfl
@[simp] theorem State.setPointer_inputs (s : State) (p : Pointer) (v : Word) : (s.setPointer p v).inputs = s.inputs := rfl
@[simp] theorem State.setPointer_events (s : State) (p : Pointer) (v : Word) : (s.setPointer p v).events = s.events := rfl
@[simp] theorem State.setPointer_draws (s : State) (p : Pointer) (v : Word) : (s.setPointer p v).draws = s.draws := rfl

@[simp] theorem State.writeResult_cfg (s : State) (d : Reg) (r : Byte) (f : Byte) : (s.writeResult d r f).cfg = s.cfg := rfl
@[simp] theorem State.writeResult_regs (s : State) (d : Reg) (r : Byte) (f : Byte) : (s.writeResult d r f).regs = s.regs.set d.val r := rfl
@[simp] theorem State.writeResult_pc (s : State) (d : Reg) (r : Byte) (f : Byte) : (s.writeResult d r f).pc = s.pcAfter 1 := rfl
@[simp] theorem State.writeResult_sreg (s : State) (d : Reg) (r : Byte) (f : Byte) : (s.writeResult d r f).sreg = f := rfl
@[simp] theorem State.writeResult_sp (s : State) (d : Reg) (r : Byte) (f : Byte) : (s.writeResult d r f).sp = s.sp := rfl
@[simp] theorem State.writeResult_ram (s : State) (d : Reg) (r : Byte) (f : Byte) : (s.writeResult d r f).ram = s.ram := rfl
@[simp] theorem State.writeResult_io (s : State) (d : Reg) (r : Byte) (f : Byte) : (s.writeResult d r f).io = s.io := rfl
@[simp] theorem State.writeResult_flash (s : State) (d : Reg) (r : Byte) (f : Byte) : (s.writeResult d r f).flash = s.flash := rfl
@[simp] theorem State.writeResult_irqInhibit (s : State) (d : Reg) (r : Byte) (f : Byte) : (s.writeResult d r f).irqInhibit = s.irqInhibit := rfl
@[simp] theorem State.writeResult_sleeping (s : State) (d : Reg) (r : Byte) (f : Byte) : (s.writeResult d r f).sleeping = s.sleeping := rfl
@[simp] theorem State.writeResult_stopped (s : State) (d : Reg) (r : Byte) (f : Byte) : (s.writeResult d r f).stopped = s.stopped := rfl
@[simp] theorem State.writeResult_inputs (s : State) (d : Reg) (r : Byte) (f : Byte) : (s.writeResult d r f).inputs = s.inputs := rfl
@[simp] theorem State.writeResult_events (s : State) (d : Reg) (r : Byte) (f : Byte) : (s.writeResult d r f).events = s.events := rfl
@[simp] theorem State.writeResult_draws (s : State) (d : Reg) (r : Byte) (f : Byte) : (s.writeResult d r f).draws = s.draws := rfl

@[simp] theorem State.writePairResult_cfg (s : State) (d : Reg) (r : Word) (f : Byte) : (s.writePairResult d r f).cfg = s.cfg := rfl
@[simp] theorem State.writePairResult_regs (s : State) (d : Reg) (r : Word) (f : Byte) : (s.writePairResult d r f).regs = (s.setPair d r).regs := rfl
@[simp] theorem State.writePairResult_pc (s : State) (d : Reg) (r : Word) (f : Byte) : (s.writePairResult d r f).pc = s.pcAfter 1 := rfl
@[simp] theorem State.writePairResult_sreg (s : State) (d : Reg) (r : Word) (f : Byte) : (s.writePairResult d r f).sreg = f := rfl
@[simp] theorem State.writePairResult_sp (s : State) (d : Reg) (r : Word) (f : Byte) : (s.writePairResult d r f).sp = s.sp := rfl
@[simp] theorem State.writePairResult_ram (s : State) (d : Reg) (r : Word) (f : Byte) : (s.writePairResult d r f).ram = s.ram := rfl
@[simp] theorem State.writePairResult_io (s : State) (d : Reg) (r : Word) (f : Byte) : (s.writePairResult d r f).io = s.io := rfl
@[simp] theorem State.writePairResult_flash (s : State) (d : Reg) (r : Word) (f : Byte) : (s.writePairResult d r f).flash = s.flash := rfl
@[simp] theorem State.writePairResult_irqInhibit (s : State) (d : Reg) (r : Word) (f : Byte) : (s.writePairResult d r f).irqInhibit = s.irqInhibit := rfl
@[simp] theorem State.writePairResult_sleeping (s : State) (d : Reg) (r : Word) (f : Byte) : (s.writePairResult d r f).sleeping = s.sleeping := rfl
@[simp] theorem State.writePairResult_stopped (s : State) (d : Reg) (r : Word) (f : Byte) : (s.writePairResult d r f).stopped = s.stopped := rfl
@[simp] theorem State.writePairResult_inputs (s : State) (d : Reg) (r : Word) (f : Byte) : (s.writePairResult d r f).inputs = s.inputs := rfl
@[simp] theorem State.writePairResult_events (s : State) (d : Reg) (r : Word) (f : Byte) : (s.writePairResult d r f).events = s.events := rfl
@[simp] theorem State.writePairResult_draws (s : State) (d : Reg) (r : Word) (f : Byte) : (s.writePairResult d r f).draws = s.draws := rfl

@[simp] theorem State.writeFlags_cfg (s : State) (f : Byte) : (s.writeFlags f).cfg = s.cfg := rfl
@[simp] theorem State.writeFlags_regs (s : State) (f : Byte) : (s.writeFlags f).regs = s.regs := rfl
@[simp] theorem State.writeFlags_pc (s : State) (f : Byte) : (s.writeFlags f).pc = s.pcAfter 1 := rfl
@[simp] theorem State.writeFlags_sreg (s : State) (f : Byte) : (s.writeFlags f).sreg = f := rfl
@[simp] theorem State.writeFlags_sp (s : State) (f : Byte) : (s.writeFlags f).sp = s.sp := rfl
@[simp] theorem State.writeFlags_ram (s : State) (f : Byte) : (s.writeFlags f).ram = s.ram := rfl
@[simp] theorem State.writeFlags_io (s : State) (f : Byte) : (s.writeFlags f).io = s.io := rfl
@[simp] theorem State.writeFlags_flash (s : State) (f : Byte) : (s.writeFlags f).flash = s.flash := rfl
@[simp] theorem State.writeFlags_irqInhibit (s : State) (f : Byte) : (s.writeFlags f).irqInhibit = s.irqInhibit := rfl
@[simp] theorem State.writeFlags_sleeping (s : State) (f : Byte) : (s.writeFlags f).sleeping = s.sleeping := rfl
@[simp] theorem State.writeFlags_stopped (s : State) (f : Byte) : (s.writeFlags f).stopped = s.stopped := rfl
@[simp] theorem State.writeFlags_inputs (s : State) (f : Byte) : (s.writeFlags f).inputs = s.inputs := rfl
@[simp] theorem State.writeFlags_events (s : State) (f : Byte) : (s.writeFlags f).events = s.events := rfl
@[simp] theorem State.writeFlags_draws (s : State) (f : Byte) : (s.writeFlags f).draws = s.draws := rfl

@[simp] theorem State.setSpHigh_cfg (s : State) (v : Byte) : (s.setSpHigh v).cfg = s.cfg := by
  unfold State.setSpHigh; split <;> rfl
@[simp] theorem State.setSpHigh_regs (s : State) (v : Byte) : (s.setSpHigh v).regs = s.regs := by
  unfold State.setSpHigh; split <;> rfl
@[simp] theorem State.setSpHigh_pc (s : State) (v : Byte) : (s.setSpHigh v).pc = s.pc := by
  unfold State.setSpHigh; split <;> rfl
@[simp] theorem State.setSpHigh_sreg (s : State) (v : Byte) : (s.setSpHigh v).sreg = s.sreg := by
  unfold State.setSpHigh; split <;> rfl
@[simp] theorem State.setSpHigh_ram (s : State) (v : Byte) : (s.setSpHigh v).ram = s.ram := by
  unfold State.setSpHigh; split <;> rfl
@[simp] theorem State.setSpHigh_io (s : State) (v : Byte) : (s.setSpHigh v).io = s.io := by
  unfold State.setSpHigh; split <;> rfl
@[simp] theorem State.setSpHigh_flash (s : State) (v : Byte) : (s.setSpHigh v).flash = s.flash := by
  unfold State.setSpHigh; split <;> rfl
@[simp] theorem State.setSpHigh_irqInhibit (s : State) (v : Byte) : (s.setSpHigh v).irqInhibit = s.irqInhibit := by
  unfold State.setSpHigh; split <;> rfl
@[simp] theorem State.setSpHigh_sleeping (s : State) (v : Byte) : (s.setSpHigh v).sleeping = s.sleeping := by
  unfold State.setSpHigh; split <;> rfl
@[simp] theorem State.setSpHigh_stopped (s : State) (v : Byte) : (s.setSpHigh v).stopped = s.stopped := by
  unfold State.setSpHigh; split <;> rfl
@[simp] theorem State.setSpHigh_inputs (s : State) (v : Byte) : (s.setSpHigh v).inputs = s.inputs := by
  unfold State.setSpHigh; split <;> rfl
@[simp] theorem State.setSpHigh_events (s : State) (v : Byte) : (s.setSpHigh v).events = s.events := by
  unfold State.setSpHigh; split <;> rfl
@[simp] theorem State.setSpHigh_draws (s : State) (v : Byte) : (s.setSpHigh v).draws = s.draws := by
  unfold State.setSpHigh; split <;> rfl

/-! ## Reading after an update -/

@[simp] theorem State.reg_setReg (s : State) (i j : Reg) (v : Byte) :
    (s.setReg i v).reg j = if j = i then v else s.reg j := by
  simp only [State.reg, State.setReg, Vector.getElem_set, Fin.ext_iff, eq_comm (a := i.val)]

theorem State.reg_setReg_self (s : State) (i : Reg) (v : Byte) : (s.setReg i v).reg i = v := by simp

theorem State.reg_setReg_ne (s : State) {i j : Reg} (v : Byte) (h : j ≠ i) :
    (s.setReg i v).reg j = s.reg j := by simp [h]

theorem nextReg_ne (i : Reg) : nextReg i ≠ i := by revert i; decide

@[simp] theorem State.reg_setPair (s : State) (i j : Reg) (v : Word) :
    (s.setPair i v).reg j = if j = nextReg i then highByte v else if j = i then lowByte v else s.reg j := by
  simp [State.setPair]

theorem lowByte_wordOfBytes (l h : Byte) : lowByte (wordOfBytes l h) = l := by
  apply BitVec.eq_of_getLsbD_eq
  intro i hi
  simp only [lowByte, wordOfBytes, BitVec.getLsbD_extractLsb', BitVec.getLsbD_append]
  simp [hi]

theorem highByte_wordOfBytes (l h : Byte) : highByte (wordOfBytes l h) = h := by
  apply BitVec.eq_of_getLsbD_eq
  intro i hi
  simp only [highByte, wordOfBytes, BitVec.getLsbD_extractLsb', BitVec.getLsbD_append]
  simp [hi]

theorem wordOfBytes_low_high (w : Word) : wordOfBytes (lowByte w) (highByte w) = w := by
  apply BitVec.eq_of_getLsbD_eq
  intro i hi
  simp only [lowByte, highByte, wordOfBytes, BitVec.getLsbD_extractLsb', BitVec.getLsbD_append]
  by_cases h : i < 8
  · simp [h]
  · simp only [h, decide_false]
    have : i - 8 < 8 := by omega
    simp [this, show 8 + (i - 8) = i by omega]

@[simp] theorem State.pair_setPair (s : State) (i : Reg) (v : Word) : (s.setPair i v).pair i = v := by
  simp [State.pair, (nextReg_ne i).symm, wordOfBytes_low_high]

theorem State.reg_congr {s t : State} (h : t.regs = s.regs) (i : Reg) : t.reg i = s.reg i := by
  simp [State.reg, h]

theorem State.flag_congr {s t : State} (h : t.sreg = s.sreg) (f : Flag) : t.flag f = s.flag f := by
  simp [State.flag, h]

@[simp] theorem State.reg_advance (s : State) (n : Nat) (i : Reg) : (s.advance n).reg i = s.reg i := rfl
@[simp] theorem State.reg_emit (s : State) (e : PlatformEvent) (i : Reg) : (s.emit e).reg i = s.reg i := rfl
@[simp] theorem State.reg_afterDraw (s : State) (i : Reg) : s.afterDraw.reg i = s.reg i := rfl
@[simp] theorem State.flag_setReg (s : State) (i : Reg) (v : Byte) (f : Flag) :
    (s.setReg i v).flag f = s.flag f := rfl
@[simp] theorem State.flag_advance (s : State) (n : Nat) (f : Flag) : (s.advance n).flag f = s.flag f := rfl

/-! ## The bits of a byte and the flags of SREG (R26) -/

@[simp] theorem getBit_putBit (x : Byte) (n m : BitNum) (b : Bool) :
    getBit (putBit x n b) m = if m = n then b else getBit x m := by
  revert x n m b; decide +kernel

theorem Flag.bit_inj {f g : Flag} (h : f.bit = g.bit) : f = g := by
  revert h; cases f <;> cases g <;> decide

@[simp] theorem getFlag_putFlag (x : Byte) (f g : Flag) (b : Bool) :
    getFlag (putFlag x f b) g = if g = f then b else getFlag x g := by
  simp only [getFlag, putFlag, getBit_putBit]
  by_cases h : g = f
  · simp [h]
  · have hb : g.bit ≠ f.bit := fun e => h (Flag.bit_inj e)
    simp [h, hb]

/-- A byte is known by its eight flags. -/
theorem sreg_ext {x y : Byte} (h : ∀ f, getFlag x f = getFlag y f) : x = y := by
  have h0 := h .c; have h1 := h .z; have h2 := h .n; have h3 := h .v
  have h4 := h .s; have h5 := h .h; have h6 := h .t; have h7 := h .i
  simp only [getFlag, getBit, Flag.bit] at h0 h1 h2 h3 h4 h5 h6 h7
  apply BitVec.eq_of_getLsbD_eq
  intro i hi
  interval_cases i <;> assumption

@[simp] theorem getFlag_putNVZS (x : Byte) (a : ArithFlags) (g : Flag) :
    getFlag (putNVZS x a) g =
      match g with
      | .n => a.n
      | .v => a.v
      | .z => a.z
      | .s => a.s
      | g => getFlag x g := by
  cases g <;> simp [putNVZS]

@[simp] theorem getFlag_putCNVZS (x : Byte) (a : ArithFlags) (g : Flag) :
    getFlag (putCNVZS x a) g =
      match g with
      | .c => a.c
      | .n => a.n
      | .v => a.v
      | .z => a.z
      | .s => a.s
      | g => getFlag x g := by
  cases g <;> simp [putCNVZS]

@[simp] theorem getFlag_putHCNVZS (x : Byte) (a : ArithFlags) (g : Flag) :
    getFlag (putHCNVZS x a) g =
      match g with
      | .h => a.h
      | .c => a.c
      | .n => a.n
      | .v => a.v
      | .z => a.z
      | .s => a.s
      | g => getFlag x g := by
  cases g <;> simp [putHCNVZS]

@[simp] theorem getFlag_putShiftRight (w : Bool) (x : Byte) (a : ArithFlags) (g : Flag) :
    getFlag (putShiftRight w x a) g =
      match g with
      | .c => a.c
      | .n => a.n
      | .v => a.v
      | .z => a.z
      | .s => if w then a.s else getFlag x .s
      | g => getFlag x g := by
  cases w <;> cases g <;> simp [putShiftRight]

end Sys2Proof.Machine
end

