-- ==== Sys2Proof/Laws/Decode.lean ====
section
/-! SUPPORT. The decoder and the encoder: which row decodes a word, and, for each format of R84, the bits its mask
selects, the fields of a formatted word, and the word formatted from its fields. -/

namespace Sys2Proof

/-! ## The rows -/

/-- R90: two rows of the opcode map have a bit that both fix, and fix differently. -/
def OpcodeRow.differs (x y : OpcodeRow) : Bool :=
  (List.range 16).any fun k =>
    x.mask.getLsbD k && y.mask.getLsbD k && (x.pattern.getLsbD k != y.pattern.getLsbD k)

theorem OpcodeRow.not_both_of_differs {x y : OpcodeRow} (h : x.differs y = true) (w : Word) :
    ¬(x.matchesWord w = true ∧ y.matchesWord w = true) := by
  rintro ⟨hx, hy⟩
  simp only [OpcodeRow.matchesWord, beq_iff_eq] at hx hy
  obtain ⟨k, -, hk⟩ := List.any_eq_true.1 h
  simp only [Bool.and_eq_true, bne_iff_ne, ne_eq] at hk
  obtain ⟨⟨mx, my⟩, hne⟩ := hk
  apply hne
  rw [← hx, ← hy, BitVec.getLsbD_and, BitVec.getLsbD_and, mx, my]

theorem opcodeRows_differ : opcodeRows.Pairwise (fun x y => x.differs y = true) := by
  decide +kernel

/-- R90: the row that matches a first word decodes it. -/
theorem decodeWord_of_row {row : OpcodeRow} (hm : row ∈ opcodeRows) {w0 : Word} (hw : row.matchesWord w0 = true)
    (w1 : Word) : decodeWord w0 w1 = some (row.build w0 w1) := by
  have key : ∀ rows : List OpcodeRow, rows.Pairwise (fun x y => x.differs y = true) → row ∈ rows →
      rows.find? (·.matchesWord w0) = some row := by
    intro rows hp hr
    induction hp with
    | nil => cases hr
    | @cons x rest hx _ ih =>
      rcases List.mem_cons.1 hr with rfl | hr'
      · simp [hw]
      · have hnx : x.matchesWord w0 = false := by
          cases hxw : x.matchesWord w0
          · rfl
          · exact absurd ⟨hxw, hw⟩ (OpcodeRow.not_both_of_differs (hx row hr') w0)
        simp [hnx, ih hr']
  simp [decodeWord, key opcodeRows opcodeRows_differ hm]

/-- What a decoded word is: the meaning of a row that matches it. -/
theorem decodeWord_some {w0 w1 : Word} {i : Instr} (h : decodeWord w0 w1 = some i) :
    ∃ row ∈ opcodeRows, row.matchesWord w0 = true ∧ i = row.build w0 w1 := by
  unfold decodeWord at h
  obtain ⟨row, hf, rfl⟩ := Option.map_eq_some_iff.1 h
  exact ⟨row, List.mem_of_find?_eq_some hf, by simpa using List.find?_some hf, rfl⟩

/-- R100: a first word is legal exactly when it decodes. -/
theorem isLegalWord_iff {w0 w1 : Word} : isLegalWord w0 = true ↔ ∃ i, decodeWord w0 w1 = some i := by
  constructor
  · intro h
    obtain ⟨row, hm, hw⟩ := List.any_eq_true.1 h
    exact ⟨_, decodeWord_of_row hm hw w1⟩
  · rintro ⟨i, h⟩
    obtain ⟨row, hm, hw, -⟩ := decodeWord_some h
    exact List.any_eq_true.2 ⟨row, hm, hw⟩

/-! ## Register and number fields -/

theorem regBits_inj {d e : Reg} (h : regBits d = regBits e) : d = e := by
  revert d e; decide

theorem numBits_inj {n m : BitNum} (h : numBits n = numBits m) : n = m := by
  revert n m; decide

theorem regBits_fieldD (w : Word) : regBits (fieldD w) = w.extractLsb' 4 5 := by
  simp only [regBits, fieldD, BitVec.ofNat_toNat, BitVec.setWidth_eq]

theorem regBits_fieldR (w : Word) : regBits (fieldR w) = w.extractLsb' 9 1 ++ w.extractLsb' 0 4 := by
  simp only [regBits, fieldR, BitVec.ofNat_toNat, BitVec.setWidth_eq]

theorem numBits_fieldB (w : Word) : numBits (fieldB w) = w.extractLsb' 0 3 := by
  simp only [numBits, fieldB, BitVec.ofNat_toNat, BitVec.setWidth_eq]

theorem numBits_fieldS (w : Word) : numBits (fieldS w) = w.extractLsb' 4 3 := by
  simp only [numBits, fieldS, BitVec.ofNat_toNat, BitVec.setWidth_eq]

/-! ## The bits of a word of each format (R84) -/

/-- Format RR. -/
theorem formatRR_bit (op : BitVec 6) (d r : Reg) (i : Nat) :
    (formatRR op d r).getLsbD i =
      if i < 4 then (regBits r).getLsbD i
      else if i < 9 then (regBits d).getLsbD (i - 4)
      else if i < 10 then (regBits r).getLsbD 4
      else op.getLsbD (i - 10) := by
  change BitVec.getLsbD (w := 6 + 1 + 5 + 4) (op ++ (regBits r).extractLsb' 4 1 ++ regBits d ++ (regBits r).extractLsb' 0 4) i = _
  simp only [BitVec.getLsbD_append, BitVec.getLsbD_extractLsb']
  grind

/-- Format RI. -/
theorem formatRI_bit (op : BitVec 4) (d : Reg) (k : Byte) (i : Nat) :
    (formatRI op d k).getLsbD i =
      if i < 4 then k.getLsbD i
      else if i < 8 then (BitVec.ofNat 4 (d.val - 16)).getLsbD (i - 4)
      else if i < 12 then k.getLsbD (i - 4)
      else op.getLsbD (i - 12) := by
  change BitVec.getLsbD (w := 4 + 4 + 4 + 4) (op ++ k.extractLsb' 4 4 ++ BitVec.ofNat 4 (d.val - 16) ++ k.extractLsb' 0 4) i = _
  simp only [BitVec.getLsbD_append, BitVec.getLsbD_extractLsb']
  grind

/-- Format R1. -/
theorem formatR1_bit (d : Reg) (op : BitVec 4) (i : Nat) :
    (formatR1 d op).getLsbD i =
      if i < 4 then op.getLsbD i
      else if i < 9 then (regBits d).getLsbD (i - 4)
      else (0b1001010#7).getLsbD (i - 9) := by
  change BitVec.getLsbD (w := 7 + 5 + 4) (0b1001010#7 ++ regBits d ++ op) i = _
  simp only [BitVec.getLsbD_append]
  grind

/-- Format IW. -/
theorem formatIW_bit (o : BitVec 1) (d : Reg) (k : BitVec 6) (i : Nat) :
    (formatIW o d k).getLsbD i =
      if i < 4 then k.getLsbD i
      else if i < 6 then (BitVec.ofNat 2 ((d.val - 24) / 2)).getLsbD (i - 4)
      else if i < 8 then k.getLsbD (i - 2)
      else if i < 9 then o.getLsbD (i - 8)
      else (0b1001011#7).getLsbD (i - 9) := by
  change BitVec.getLsbD (w := 7 + 1 + 2 + 2 + 4) (0b1001011#7 ++ o ++ k.extractLsb' 4 2 ++ BitVec.ofNat 2 ((d.val - 24) / 2) ++ k.extractLsb' 0 4) i = _
  simp only [BitVec.getLsbD_append, BitVec.getLsbD_extractLsb']
  grind

/-- Formats LS and LS32. -/
theorem formatLS_bit (s : BitVec 1) (d : Reg) (mode : BitVec 4) (i : Nat) :
    (formatLS s d mode).getLsbD i =
      if i < 4 then mode.getLsbD i
      else if i < 9 then (regBits d).getLsbD (i - 4)
      else if i < 10 then s.getLsbD (i - 9)
      else (0b100100#6).getLsbD (i - 10) := by
  change BitVec.getLsbD (w := 6 + 1 + 5 + 4) (0b100100#6 ++ s ++ regBits d ++ mode) i = _
  simp only [BitVec.getLsbD_append]
  grind

/-- Format DISP. -/
theorem formatDisp_bit (s : BitVec 1) (d : Reg) (y : BitVec 1) (q : BitVec 6) (i : Nat) :
    (formatDisp s d y q).getLsbD i =
      if i < 3 then q.getLsbD i
      else if i < 4 then y.getLsbD (i - 3)
      else if i < 9 then (regBits d).getLsbD (i - 4)
      else if i < 10 then s.getLsbD (i - 9)
      else if i < 12 then q.getLsbD (i - 7)
      else if i < 13 then (0b0#1).getLsbD (i - 12)
      else if i < 14 then q.getLsbD (i - 8)
      else (0b10#2).getLsbD (i - 14) := by
  change BitVec.getLsbD (w := 2 + 1 + 1 + 2 + 1 + 5 + 1 + 3) (0b10#2 ++ q.extractLsb' 5 1 ++ 0b0#1 ++ q.extractLsb' 3 2 ++ s ++ regBits d ++ y ++ q.extractLsb' 0 3) i = _
  simp only [BitVec.getLsbD_append, BitVec.getLsbD_extractLsb']
  grind

/-- Format IO. -/
theorem formatIO_bit (s : BitVec 1) (a : IoAddr) (d : Reg) (i : Nat) :
    (formatIO s a d).getLsbD i =
      if i < 4 then (BitVec.ofNat 6 a.val).getLsbD i
      else if i < 9 then (regBits d).getLsbD (i - 4)
      else if i < 11 then (BitVec.ofNat 6 a.val).getLsbD (i - 5)
      else if i < 12 then s.getLsbD (i - 11)
      else (0b1011#4).getLsbD (i - 12) := by
  change BitVec.getLsbD (w := 4 + 1 + 2 + 5 + 4) (0b1011#4 ++ s ++ (BitVec.ofNat 6 a.val).extractLsb' 4 2 ++ regBits d ++ (BitVec.ofNat 6 a.val).extractLsb' 0 4) i = _
  simp only [BitVec.getLsbD_append, BitVec.getLsbD_extractLsb']
  grind

/-- Format IOB. -/
theorem formatIOB_bit (op : BitVec 2) (a : IoLow) (b : BitNum) (i : Nat) :
    (formatIOB op a b).getLsbD i =
      if i < 3 then (numBits b).getLsbD i
      else if i < 8 then (BitVec.ofNat 5 a.val).getLsbD (i - 3)
      else if i < 10 then op.getLsbD (i - 8)
      else (0b100110#6).getLsbD (i - 10) := by
  change BitVec.getLsbD (w := 6 + 2 + 5 + 3) (0b100110#6 ++ op ++ BitVec.ofNat 5 a.val ++ numBits b) i = _
  simp only [BitVec.getLsbD_append]
  grind

/-- Format RB. -/
theorem formatRB_bit (op : BitVec 2) (r : Reg) (b : BitNum) (i : Nat) :
    (formatRB op r b).getLsbD i =
      if i < 3 then (numBits b).getLsbD i
      else if i < 4 then (0b0#1).getLsbD (i - 3)
      else if i < 9 then (regBits r).getLsbD (i - 4)
      else if i < 11 then op.getLsbD (i - 9)
      else (0b11111#5).getLsbD (i - 11) := by
  change BitVec.getLsbD (w := 5 + 2 + 5 + 1 + 3) (0b11111#5 ++ op ++ regBits r ++ 0b0#1 ++ numBits b) i = _
  simp only [BitVec.getLsbD_append]
  grind

/-- Format BR. -/
theorem formatBR_bit (o : BitVec 1) (n : BitNum) (k : BitVec 7) (i : Nat) :
    (formatBR o n k).getLsbD i =
      if i < 3 then (numBits n).getLsbD i
      else if i < 10 then k.getLsbD (i - 3)
      else if i < 11 then o.getLsbD (i - 10)
      else (0b11110#5).getLsbD (i - 11) := by
  change BitVec.getLsbD (w := 5 + 1 + 7 + 3) (0b11110#5 ++ o ++ k ++ numBits n) i = _
  simp only [BitVec.getLsbD_append]
  grind

/-- Format REL. -/
theorem formatRel_bit (o : BitVec 1) (k : BitVec 12) (i : Nat) :
    (formatRel o k).getLsbD i =
      if i < 12 then k.getLsbD i
      else if i < 13 then o.getLsbD (i - 12)
      else (0b110#3).getLsbD (i - 13) := by
  change BitVec.getLsbD (w := 3 + 1 + 12) (0b110#3 ++ o ++ k) i = _
  simp only [BitVec.getLsbD_append]
  grind

/-- Format SF. -/
theorem formatSF_bit (o : BitVec 1) (n : BitNum) (i : Nat) :
    (formatSF o n).getLsbD i =
      if i < 4 then (0b1000#4).getLsbD i
      else if i < 7 then (numBits n).getLsbD (i - 4)
      else if i < 8 then o.getLsbD (i - 7)
      else (0b10010100#8).getLsbD (i - 8) := by
  change BitVec.getLsbD (w := 8 + 1 + 3 + 4) (0b10010100#8 ++ o ++ numBits n ++ 0b1000#4) i = _
  simp only [BitVec.getLsbD_append]
  grind

end Sys2Proof
end

