-- ==== Sys2Proof/Laws/Memory.lean ====
section
/-! SUPPORT. The laws of a canonical memory: a read after a write, every other address left alone, and the canonical
form kept. -/

namespace Sys2Proof.Machine

variable {erased : Option Byte}

/-- An address below every listed one reads as unlisted. -/
theorem Memory.get_of_lt {m : Memory} {a : Nat} (h : ∀ c ∈ m, a < c.1) : Memory.get erased m a = erased := by
  induction m with
  | nil => rfl
  | cons c rest ih =>
    have hc := h c (by simp)
    simp only [Memory.get]
    rw [if_neg (by omega), ih fun d hd => h d (by simp [hd])]

theorem Memory.get_consCell {m : Memory} {a b : Nat} {v : Byte} (h : ∀ c ∈ m, a < c.1) :
    Memory.get erased (Memory.consCell erased a v m) b = if b = a then some v else Memory.get erased m b := by
  unfold Memory.consCell
  split
  · rename_i hv
    split
    · subst b; rw [Memory.get_of_lt h, hv]
    · rfl
  · rfl

/-- A read after a write gives the value written at that address and leaves every other address alone. -/
theorem Memory.get_set {m : Memory} (h : Memory.WF erased m) (a b : Nat) (v : Byte) :
    Memory.get erased (Memory.set erased m a v) b = if b = a then some v else Memory.get erased m b := by
  induction m with
  | nil => exact Memory.get_consCell (by simp)
  | cons c rest ih =>
    obtain ⟨k, w⟩ := c
    obtain ⟨hs, he⟩ := h
    rw [List.pairwise_cons] at hs
    have hrest : Memory.WF erased rest := ⟨hs.2, fun d hd => he d (by simp [hd])⟩
    simp only [Memory.set]
    split
    · rename_i hlt
      rw [Memory.get_consCell]
      intro d hd
      rcases List.mem_cons.1 hd with rfl | hd
      · exact hlt
      · have := hs.1 d hd; simp only at this; omega
    · split
      · rename_i hlt heq
        subst heq
        rw [Memory.get_consCell hs.1]
        simp only [Memory.get]
        split <;> simp_all
      · rename_i hlt hne
        simp only [Memory.get, ih hrest]
        by_cases hb : b = k
        · subst hb; simp [Ne.symm hne]
        · simp [hb]

theorem Memory.mem_consCell {m : Memory} {a : Nat} {v : Byte} {c : Host.Cell}
    (h : c ∈ Memory.consCell erased a v m) : c = (a, v) ∧ some v ≠ erased ∨ c ∈ m := by
  unfold Memory.consCell at h
  split at h
  · exact .inr h
  · rename_i hv
    rcases List.mem_cons.1 h with rfl | h
    · exact .inl ⟨rfl, hv⟩
    · exact .inr h

/-- A cell of a written memory is the written one or was there before. -/
theorem Memory.mem_set {m : Memory} {a : Nat} {v : Byte} {c : Host.Cell}
    (h : c ∈ Memory.set erased m a v) : c = (a, v) ∧ some v ≠ erased ∨ c ∈ m := by
  induction m with
  | nil => exact Memory.mem_consCell h
  | cons d rest ih =>
    obtain ⟨k, w⟩ := d
    simp only [Memory.set] at h
    split at h
    · exact Memory.mem_consCell h
    · split at h
      · rcases Memory.mem_consCell h with h | h
        · exact .inl h
        · exact .inr (by simp [h])
      · rcases List.mem_cons.1 h with h | h
        · exact .inr (by simp [h])
        · rcases ih h with h | h
          · exact .inl h
          · exact .inr (by simp [h])

theorem Memory.wf_consCell {m : Memory} {a : Nat} {v : Byte} (hm : Memory.WF erased m)
    (h : ∀ c ∈ m, a < c.1) : Memory.WF erased (Memory.consCell erased a v m) := by
  unfold Memory.consCell
  split
  · exact hm
  · rename_i hv
    refine ⟨List.pairwise_cons.2 ⟨h, hm.1⟩, fun c hc => ?_⟩
    rcases List.mem_cons.1 hc with rfl | hc
    · exact hv
    · exact hm.2 c hc

/-- Every write keeps the canonical form. -/
theorem Memory.wf_set {m : Memory} (h : Memory.WF erased m) (a : Nat) (v : Byte) :
    Memory.WF erased (Memory.set erased m a v) := by
  induction m with
  | nil => exact Memory.wf_consCell h (by simp)
  | cons c rest ih =>
    obtain ⟨k, w⟩ := c
    obtain ⟨hs, he⟩ := h
    rw [List.pairwise_cons] at hs
    have hrest : Memory.WF erased rest := ⟨hs.2, fun d hd => he d (by simp [hd])⟩
    simp only [Memory.set]
    split
    · rename_i hlt
      refine Memory.wf_consCell ⟨List.pairwise_cons.2 hs, he⟩ fun d hd => ?_
      rcases List.mem_cons.1 hd with rfl | hd
      · exact hlt
      · have := hs.1 d hd; simp only at this; omega
    · split
      · rename_i hlt heq
        subst heq
        exact Memory.wf_consCell hrest hs.1
      · rename_i hlt hne
        refine ⟨List.pairwise_cons.2 ⟨fun d hd => ?_, (ih hrest).1⟩, fun d hd => ?_⟩
        · rcases Memory.mem_set hd with ⟨rfl, _⟩ | hd
          · show k < a; omega
          · exact hs.1 d hd
        · rcases List.mem_cons.1 hd with rfl | hd
          · exact he _ (by simp)
          · exact (ih hrest).2 d hd

/-- In RAM, whose unlisted bytes have no value, the law of a read after a write needs no canonical form. -/
theorem Memory.get_set_ram (m : Memory) (a b : Nat) (v : Byte) :
    Memory.get ramErased (Memory.set ramErased m a v) b =
      if b = a then some v else Memory.get ramErased m b := by
  have hc : ∀ m : Memory, Memory.consCell ramErased a v m = (a, v) :: m := fun m => by
    simp [Memory.consCell, ramErased]
  induction m with
  | nil => simp [Memory.set, hc, Memory.get]
  | cons c rest ih =>
    obtain ⟨k, w⟩ := c
    simp only [Memory.set, hc]
    split
    · simp [Memory.get]
    · split
      · rename_i heq; subst heq; simp only [Memory.get]; split <;> simp_all
      · rename_i hne
        simp only [Memory.get, ih]
        by_cases hb : b = k
        · subst hb; simp [Ne.symm hne]
        · simp [hb]

/-- Two canonical memories that read alike are the same list: equal memories are equal data. -/
theorem Memory.ext_get {m m' : Memory} (h : Memory.WF erased m) (h' : Memory.WF erased m')
    (hg : ∀ a, Memory.get erased m a = Memory.get erased m' a) : m = m' := by
  induction m generalizing m' with
  | nil =>
    cases m' with
    | nil => rfl
    | cons c rest =>
      have := hg c.1
      simp only [Memory.get, if_true] at this
      exact absurd this.symm (h'.2 c (by simp))
  | cons c rest ih =>
    obtain ⟨k, w⟩ := c
    have hs := List.pairwise_cons.1 h.1
    have hrest : Memory.WF erased rest := ⟨hs.2, fun d hd => h.2 d (by simp [hd])⟩
    cases m' with
    | nil =>
      have := hg k
      simp only [Memory.get, if_true] at this
      exact absurd this (h.2 (k, w) (by simp))
    | cons c' rest' =>
      obtain ⟨k', w'⟩ := c'
      have hs' := List.pairwise_cons.1 h'.1
      have hrest' : Memory.WF erased rest' := ⟨hs'.2, fun d hd => h'.2 d (by simp [hd])⟩
      have hk : k = k' := by
        rcases Nat.lt_trichotomy k k' with hlt | heq | hgt
        · have := hg k
          simp only [Memory.get, if_true] at this
          rw [if_neg (by omega), Memory.get_of_lt fun d hd => by have := hs'.1 d hd; simp only at this; omega] at this
          exact absurd this (h.2 (k, w) (by simp))
        · exact heq
        · have := hg k'
          simp only [Memory.get, if_true] at this
          rw [if_neg (by omega), Memory.get_of_lt fun d hd => by have := hs.1 d hd; simp only at this; omega] at this
          exact absurd this.symm (h'.2 (k', w') (by simp))
      subst hk
      have hw : w = w' := by simpa [Memory.get] using hg k
      subst hw
      refine congrArg _ (ih hrest hrest' fun a => ?_)
      by_cases ha : a = k
      · subst ha
        rw [Memory.get_of_lt hs.1, Memory.get_of_lt hs'.1]
      · simpa [Memory.get, ha] using hg a

end Sys2Proof.Machine
end

