-- ==== Sys2Proof/Laws/Ops.lean ====
section
/-! SUPPORT. For each shared operation, once, what it can do: what it answers, what it touches, and that it keeps the
invariant. -/

namespace Sys2Proof.Machine

/-! ## The frame relation -/

theorem OnlyTouches.refl (w : Touched) (s : State) : OnlyTouches w s s := by
  constructor <;> intros <;> rfl

theorem OnlyTouches.trans {w : Touched} {s t u : State} (h : OnlyTouches w s t) (k : OnlyTouches w t u) :
    OnlyTouches w s u where
  cfg := k.cfg.trans h.cfg
  regs i hi := (k.regs i hi).trans (h.regs i hi)
  flags f hf := (k.flags f hf).trans (h.flags f hf)
  sp e := (k.sp e).trans (h.sp e)
  ram a ha := (k.ram a ha).trans (h.ram a ha)
  io a ha := (k.io a ha).trans (h.io a ha)
  flash a := (k.flash a).trans (h.flash a)
  inputs := k.inputs.trans h.inputs
  inhibit e := (k.inhibit e).trans (h.inhibit e)
  sleeping e := (k.sleeping e).trans (h.sleeping e)
  stopped e := (k.stopped e).trans (h.stopped e)
  events e := (k.events e).trans (h.events e)
  draws e := (k.draws e).trans (h.draws e)

/-- What may be touched, made larger. -/
theorem OnlyTouches.mono {w w' : Touched} {s t : State} (h : OnlyTouches w s t)
    (hr : ∀ i ∈ w.regs, i ∈ w'.regs) (hf : ∀ f ∈ w.flags, f ∈ w'.flags)
    (hm : ∀ a ∈ w.ram, a ∈ w'.ram) (hi : ∀ a ∈ w.io, a ∈ w'.io)
    (hsp : w'.sp = false → w.sp = false) (hin : w'.inhibit = false → w.inhibit = false)
    (hsl : w'.sleeping = false → w.sleeping = false) (hst : w'.stopped = false → w.stopped = false)
    (hev : w'.events = false → w.events = false) (hd : w'.draws = false → w.draws = false) :
    OnlyTouches w' s t where
  cfg := h.cfg
  regs i e := h.regs i fun x => e (hr i x)
  flags f e := h.flags f fun x => e (hf f x)
  sp e := h.sp (hsp e)
  ram a e := h.ram a fun x => e (hm a x)
  io a e := h.io a fun x => e (hi a x)
  flash := h.flash
  inputs := h.inputs
  inhibit e := h.inhibit (hin e)
  sleeping e := h.sleeping (hsl e)
  stopped e := h.stopped (hst e)
  events e := h.events (hev e)
  draws e := h.draws (hd e)

theorem OnlyTouches.union_left {w : Touched} {s t : State} (h : OnlyTouches w s t) (w' : Touched) :
    OnlyTouches (w.union w') s t := by
  refine h.mono ?_ ?_ ?_ ?_ ?_ ?_ ?_ ?_ ?_ ?_ <;> simp +contextual [Touched.union]

theorem OnlyTouches.union_right {w' : Touched} {s t : State} (h : OnlyTouches w' s t) (w : Touched) :
    OnlyTouches (w.union w') s t := by
  refine h.mono ?_ ?_ ?_ ?_ ?_ ?_ ?_ ?_ ?_ ?_ <;> simp +contextual [Touched.union]

/-- Moving the program counter touches nothing. -/
theorem OnlyTouches.withPc {w : Touched} {s t : State} (h : OnlyTouches w s t) (p : PcWord) :
    OnlyTouches w s { t with pc := p } :=
  ⟨h.cfg, h.regs, h.flags, h.sp, h.ram, h.io, h.flash, h.inputs, h.inhibit, h.sleeping, h.stopped, h.events,
    h.draws⟩

/-- Writing a register that may be touched. -/
theorem OnlyTouches.setReg {w : Touched} {s t : State} (h : OnlyTouches w s t) {i : Reg} (hi : i ∈ w.regs)
    (v : Byte) : OnlyTouches w s (t.setReg i v) :=
  { h with
    regs := fun j hj => by
      have hne : j ≠ i := fun e => hj (e ▸ hi)
      rw [State.reg_setReg_ne t v hne]
      exact h.regs j hj }

/-- Writing SREG where only flags that may be touched change. -/
theorem OnlyTouches.withSreg {w : Touched} {s t : State} (h : OnlyTouches w s t) (x : Byte)
    (hx : ∀ f, f ∉ w.flags → getFlag x f = s.flag f) : OnlyTouches w s { t with sreg := x } :=
  ⟨h.cfg, h.regs, hx, h.sp, h.ram, h.io, h.flash, h.inputs, h.inhibit, h.sleeping, h.stopped, h.events, h.draws⟩

/-! ## What an operation keeps: configuration, program memory, invariant -/

/-- An operation that moves no program counter keeps the configuration, program memory, the program counter, and
the invariant. -/
structure Keeps (s t : State) : Prop where
  cfg : t.cfg = s.cfg
  flash : t.flash = s.flash
  pc : t.pc = s.pc
  inv : s.Inv → t.Inv

theorem Keeps.refl (s : State) : Keeps s s := ⟨rfl, rfl, rfl, id⟩

theorem Keeps.trans {s t u : State} (h : Keeps s t) (k : Keeps t u) : Keeps s u :=
  ⟨k.cfg.trans h.cfg, k.flash.trans h.flash, k.pc.trans h.pc, fun i => k.inv (h.inv i)⟩

/-- The invariant looks at these fields only. -/
theorem State.Inv.congr {s t : State} (h : s.Inv) (hcfg : t.cfg = s.cfg) (hpc : t.pc = s.pc) (hsp : t.sp = s.sp)
    (hram : t.ram = s.ram) (hfl : t.flash = s.flash) (hsl : t.sleeping = s.sleeping)
    (hst : t.stopped = s.stopped) : t.Inv :=
  ⟨hcfg ▸ h.config, by rw [hcfg, hpc]; exact h.pcFits, by rw [hcfg, hsp]; exact h.spFits,
    hram ▸ h.ramCanonical, by rw [hram, hcfg]; exact h.ramInRange, hfl ▸ h.flashCanonical,
    by rw [hsl, hcfg]; exact h.sleepsByHold, by rw [hst, hcfg]; exact h.stopsByStop⟩

theorem Keeps.of_eq {s t : State} (hcfg : t.cfg = s.cfg) (hpc : t.pc = s.pc) (hsp : t.sp = s.sp)
    (hram : t.ram = s.ram) (hfl : t.flash = s.flash) (hsl : t.sleeping = s.sleeping)
    (hst : t.stopped = s.stopped) : Keeps s t :=
  ⟨hcfg, hfl, hpc, fun h => h.congr hcfg hpc hsp hram hfl hsl hst⟩

theorem setReg_keeps (s : State) (i : Reg) (v : Byte) : Keeps s (s.setReg i v) :=
  .of_eq rfl rfl rfl rfl rfl rfl rfl

theorem setPair_keeps (s : State) (i : Reg) (v : Word) : Keeps s (s.setPair i v) :=
  .of_eq rfl rfl rfl rfl rfl rfl rfl

/-! ## The program counter (R25) -/

/-- A reduced program address fits in `PC_BITS` bits. -/
theorem truncPc_fits {cfg : Config} (h : cfg.pcBits ≤ 22) (z : Int) : (truncPc cfg z).toNat < 2 ^ cfg.pcBits := by
  have hp : (0 : Int) < ((2 ^ cfg.pcBits : Nat) : Int) := by exact_mod_cast Nat.two_pow_pos _
  have h1 := Int.emod_nonneg z hp.ne'
  have h2 := Int.emod_lt_of_pos z hp
  have h3 : (2 : Nat) ^ cfg.pcBits ≤ 2 ^ 22 := Nat.pow_le_pow_right (by decide) h
  unfold truncPc
  rw [BitVec.toNat_ofInt]
  have h4 : z % ((2 ^ cfg.pcBits : Nat) : Int) < ((2 ^ 22 : Nat) : Int) :=
    lt_of_lt_of_le h2 (by exact_mod_cast h3)
  rw [Int.emod_eq_of_lt h1 h4]
  omega

/-- A program address that fits is reduced to itself. -/
theorem truncPc_of_lt {cfg : Config} (h : cfg.pcBits ≤ 22) {n : Nat} (hn : n < 2 ^ cfg.pcBits) :
    (truncPc cfg n).toNat = n := by
  have h3 : (2 : Nat) ^ cfg.pcBits ≤ 2 ^ 22 := Nat.pow_le_pow_right (by decide) h
  unfold truncPc
  have e : (n : Int) % ((2 ^ cfg.pcBits : Nat) : Int) = n :=
    Int.emod_eq_of_lt (by omega) (by exact_mod_cast hn)
  rw [BitVec.toNat_ofInt, e, Int.emod_eq_of_lt (by omega) (by exact_mod_cast lt_of_lt_of_le hn h3)]
  simp

/-- A state with a reduced program counter keeps the invariant. -/
theorem State.Inv.withPc {s : State} (h : s.Inv) (z : Int) : { s with pc := truncPc s.cfg z }.Inv :=
  { h with pcFits := truncPc_fits h.config.2.1 z }

/-! ## SP (R61, R62) -/

theorem moveSp_fits {cfg : Config} (h : cfg.spWidth = .bits8) (sp k : Word) : (moveSp cfg sp k).toNat < 256 := by
  unfold moveSp
  rw [h]
  simp only [BitVec.toNat_setWidth]
  have := (lowByte (sp + k)).isLt
  omega

theorem State.Inv.withSp {s : State} (h : s.Inv) {v : Word} (hv : s.cfg.spWidth = .bits8 → v.toNat < 256) :
    { s with sp := v }.Inv := { h with spFits := hv }

/-! ## The I/O space (R55, R56, R57) -/

/-- R55: a sure location is read without a side effect. -/
theorem ioAnswer_of_ioByte {s : State} {a : IoAddr} {v : Byte} (h : s.ioByte a = some v) : ioAnswer a s = (v, s) := by
  unfold State.ioByte at h
  unfold ioAnswer
  cases hp : ioPlace s.cfg a <;> cases hd : s.cfg.ioDevice <;> simp_all

/-- R55: a location whose byte is sure raises nothing. -/
theorem deviceRaises_of_ioByte {s : State} {a : IoAddr} {v : Byte} (h : s.ioByte a = some v)
    (events : List PlatformEvent) : deviceRaises s.cfg events a = false := by
  unfold State.ioByte at h
  unfold deviceRaises
  cases hp : ioPlace s.cfg a <;> cases hd : s.cfg.ioDevice <;> simp_all

/-- R55, R56: SREG and the bytes of SP never raise. -/
theorem deviceRaises_of_core {cfg : Config} {a : IoAddr} (h : ioPlace cfg a ≠ .device) (events : List PlatformEvent) :
    deviceRaises cfg events a = false := by
  unfold deviceRaises
  cases hp : ioPlace cfg a <;> first | rfl | exact absurd hp h

/-- R55: a read answers unless the device raises. -/
theorem ioRead_ok_iff {a : IoAddr} {s : State} {r : Byte × State} :
    ioRead a s = .ok r ↔ deviceRaises s.cfg s.events a = false ∧ r = ioAnswer a s := by
  unfold ioRead
  cases deviceRaises s.cfg s.events a <;> simp [eq_comm]

theorem ioAnswer_touches (a : IoAddr) (s : State) : OnlyTouches (ioReadTouches s a []) s (ioAnswer a s).2 := by
  cases h : s.ioByte a with
  | some v => rw [ioAnswer_of_ioByte h]; exact .refl _ _
  | none =>
    have hw : ioReadTouches s a [] = { events := true, draws := true } := by simp [ioReadTouches, h]
    rw [hw]
    unfold ioAnswer
    split
    · exact .refl _ _
    · exact .refl _ _
    · exact .refl _ _
    · split
      · exact .refl _ _
      · constructor <;> intros <;> first | rfl | contradiction

/-- R55: one read of an I/O location is one read of its device. -/
theorem ioAnswer_reads (a : IoAddr) (s : State) : ReadsOnly (ioReadEvents s.cfg a) s (ioAnswer a s).2 := by
  unfold ReadsOnly ioReadEvents ioAnswer
  cases ioPlace s.cfg a <;> cases s.cfg.ioDevice <;> exact ⟨rfl, rfl⟩

theorem ioAnswer_keeps (a : IoAddr) (s : State) : Keeps s (ioAnswer a s).2 := by
  unfold ioAnswer
  split
  · exact .refl _
  · exact .refl _
  · exact .refl _
  · split
    · exact .refl _
    · exact .of_eq rfl rfl rfl rfl rfl rfl rfl

/-- R56: after a write of SREG as a byte it holds that byte. -/
@[simp] theorem writeSreg_sreg (v : Byte) (s : State) : (writeSreg v s).sreg = v := by
  unfold writeSreg
  split
  · split <;> rfl
  · rfl

theorem writeSreg_touches (v : Byte) (s : State) :
    OnlyTouches { flags := allFlags, inhibit := true, draws := true } s (writeSreg v s) := by
  have hall : ∀ f : Flag, f ∈ allFlags := by intro f; cases f <;> decide
  unfold writeSreg
  split
  · split <;> constructor <;> intros <;> first | rfl | contradiction | (exact absurd (hall _) ‹_›)
  · constructor <;> intros <;> first | rfl | contradiction | (exact absurd (hall _) ‹_›)

theorem writeSreg_keeps (v : Byte) (s : State) : Keeps s (writeSreg v s) := by
  unfold writeSreg
  split
  · split <;> exact .of_eq rfl rfl rfl rfl rfl rfl rfl
  · exact .of_eq rfl rfl rfl rfl rfl rfl rfl

theorem setSpLow_keeps (v : Byte) (s : State) : Keeps s (s.setSpLow v) where
  cfg := rfl
  flash := rfl
  pc := rfl
  inv h := h.withSp fun hb => by
    have h8 := h.spFits hb
    simp only [wordOfBytes, highByte, BitVec.toNat_append, BitVec.extractLsb'_toNat]
    have hz : s.sp.toNat >>> 8 = 0 := by rw [Nat.shiftRight_eq_div_pow]; omega
    rw [hz]
    simpa using v.isLt

theorem setSpHigh_keeps (v : Byte) (s : State) : Keeps s (s.setSpHigh v) where
  cfg := by simp
  flash := by simp
  pc := by simp
  inv h := by
    unfold State.setSpHigh
    split
    · exact h
    · rename_i hb
      exact h.withSp fun hc => by simp_all

/-- R56: what a write of an I/O location touches. -/
theorem ioStore_touches (a : IoAddr) (v : Byte) (s : State) :
    OnlyTouches (ioWriteTouches s.cfg a) s (ioStore a v s) := by
  unfold ioWriteTouches ioStore
  cases hp : ioPlace s.cfg a with
  | sreg => exact writeSreg_touches v s
  | spl => constructor <;> intros <;> first | rfl | contradiction
  | sph =>
    simp only [State.setSpHigh]
    split <;> constructor <;> intros <;> first | rfl | contradiction
  | device =>
    cases hd : s.cfg.ioDevice with
    | plainStorage =>
      constructor <;> intros <;> first | rfl | contradiction | skip
      rename_i b hb
      have hne : a.val ≠ b.val := fun e => hb (by simp [Fin.ext e])
      exact Vector.getElem_set_ne a.isLt b.isLt hne
    | platform n => constructor <;> intros <;> first | rfl | contradiction

/-- R56: what one write of an I/O location hands the platform. -/
theorem ioStore_events (a : IoAddr) (v : Byte) (s : State) :
    (ioStore a v s).events = ioWriteEvents s.cfg a v ++ s.events := by
  unfold ioWriteEvents ioStore
  cases ioPlace s.cfg a <;> cases hd : s.cfg.ioDevice <;> try rfl
  all_goals first
    | exact (writeSreg_touches v s).events rfl
    | (simp only [State.setSpHigh]; cases s.cfg.spWidth <;> rfl)

theorem ioStore_keeps (a : IoAddr) (v : Byte) (s : State) : Keeps s (ioStore a v s) := by
  unfold ioStore
  split
  · exact writeSreg_keeps v s
  · exact setSpLow_keeps v s
  · exact setSpHigh_keeps v s
  · split
    · exact .of_eq rfl rfl rfl rfl rfl rfl rfl
    · exact .of_eq rfl rfl rfl rfl rfl rfl rfl

/-- R56: a write is made unless the device raises. -/
theorem ioWrite_ok_iff {a : IoAddr} {v : Byte} {s t : State} :
    ioWrite a v s = .ok t ↔ deviceRaises s.cfg s.events a = false ∧ t = ioStore a v s := by
  unfold ioWrite
  cases deviceRaises s.cfg s.events a <;> simp [eq_comm]

/-- R57: a bit write is made unless the device raises. -/
theorem ioBitWrite_ok_iff {a : IoLow} {b : BitNum} {v : Bool} {s t : State} :
    ioBitWrite a b v s = .ok t ↔ deviceRaises s.cfg s.events (ioOfLow a) = false ∧ t = ioBitStore a b v s := by
  unfold ioBitWrite
  cases deviceRaises s.cfg s.events (ioOfLow a) <;> simp [eq_comm]

theorem ioBitStore_keeps (a : IoLow) (b : BitNum) (v : Bool) (s : State) : Keeps s (ioBitStore a b v s) := by
  unfold ioBitStore
  split
  · exact .of_eq rfl rfl rfl rfl rfl rfl rfl
  · exact (ioAnswer_keeps _ s).trans (ioStore_keeps _ _ _)

theorem ioBitWrite_keeps {a : IoLow} {b : BitNum} {v : Bool} {s t : State} (h : ioBitWrite a b v s = .ok t) :
    Keeps s t := by
  obtain ⟨-, rfl⟩ := ioBitWrite_ok_iff.1 h
  exact ioBitStore_keeps a b v s

/-- A configuration that obeys its constraints keeps SREG and SP out of the low I/O locations (R57). -/
theorem ioPlace_low {cfg : Config} (h : cfg.WF) (a : IoLow) : ioPlace cfg (ioOfLow a) = .device := by
  obtain ⟨-, -, -, -, -, -, h1, -, h2, -, h3, -⟩ := h
  have ha := a.isLt
  have hv : (ioOfLow a).val = a.val := rfl
  unfold ioPlace
  rw [if_neg (by omega), if_neg (by omega), if_neg (by omega)]

/-! ## The data space (R52, R53) -/

/-- R52: a sure byte is read without a side effect. -/
theorem memRead_of_dataByte {s : State} {a : Word} {v : Byte} (h : s.dataByte a = some v) :
    memRead a s = .ok (v, s) := by
  unfold State.dataByte at h
  unfold memRead
  cases hr : route s.cfg a <;> simp only [hr] at h ⊢
  · cases h; rfl
  · exact ioRead_ok_iff.2 ⟨deviceRaises_of_ioByte h _, (ioAnswer_of_ioByte h).symm⟩
  · rw [h]
  · contradiction
  · contradiction

/-- R52: a read succeeds exactly where the data map gives the address a meaning and nothing is raised. -/
theorem memRead_ok_iff (a : Word) (s : State) :
    (∃ r, memRead a s = .ok r) ↔ Completes s.cfg s.events a := by
  unfold memRead Completes
  cases route s.cfg a with
  | io p => simp only [ioRead_ok_iff]; simp
  | ram => simp; split <;> simp
  | _ => simp

/-- R52: what a read that does not succeed raises. -/
theorem memRead_stops {a : Word} {s : State} {f : Fault} (h : memRead a s = .error f) :
    (route s.cfg a = .unmapped ∧ f = .unmappedAccess a) ∨
      ∃ p, route s.cfg a = .io p ∧ deviceRaises s.cfg s.events p = true ∧ f = .deviceRaised (.ioRead p) := by
  unfold memRead at h
  cases hr : route s.cfg a <;> simp only [hr] at h
  · cases h
  · rename_i p
    unfold ioRead at h
    split at h
    · exact .inr ⟨p, rfl, ‹_›, (Except.error.inj h).symm⟩
    · cases h
  · split at h <;> cases h
  · cases h
  · exact .inl ⟨rfl, (Except.error.inj h).symm⟩

/-- R52: what ends with the fault of its read stops where the read does not complete. -/
theorem AccessStops.of_memRead {a : Word} {s : State} {r : Result} (h : ∀ f, memRead a s = .error f → r = .fault f) :
    AccessStops s.cfg s.events a .ioRead r :=
  ⟨fun hr => h _ (by simp only [memRead, hr]), fun p hr hd => h _ (by simp only [memRead, hr, ioRead, hd, if_true])⟩

theorem memRead_touches {a : Word} {s t : State} {v : Byte} (h : memRead a s = .ok (v, t)) :
    OnlyTouches (loadTouches s a []) s t := by
  cases hb : s.dataByte a with
  | some w =>
    rw [memRead_of_dataByte hb] at h
    cases h
    exact .refl _ _
  | none =>
    have hw : loadTouches s a [] = { events := true, draws := true } := by simp [loadTouches, hb]
    rw [hw]
    unfold memRead at h
    split at h
    · cases h; exact .refl _ _
    · rename_i p hr
      obtain rfl : t = (ioAnswer p s).2 := congrArg Prod.snd (ioRead_ok_iff.1 h).2
      refine (ioAnswer_touches p s).mono ?_ ?_ ?_ ?_ ?_ ?_ ?_ ?_ ?_ ?_ <;> simp [ioReadTouches]
    · split at h <;> cases h
      · exact .refl _ _
      · constructor <;> intros <;> first | rfl | contradiction
    · cases h
      constructor <;> intros <;> first | rfl | contradiction
    · cases h

/-- R52: what one read of a data address hands the platform. -/
theorem memRead_events {a : Word} {s t : State} {v : Byte} (h : memRead a s = .ok (v, t)) :
    t.events = readEvents s.cfg a ++ s.events := by
  unfold memRead at h
  unfold readEvents
  cases hr : route s.cfg a <;> simp only [hr] at h ⊢
  · cases h; rfl
  · rename_i p
    obtain rfl : t = (ioAnswer p s).2 := congrArg Prod.snd (ioRead_ok_iff.1 h).2
    exact (ioAnswer_reads p s).1
  · split at h <;> cases h <;> rfl
  · cases h; rfl
  · cases h

theorem memRead_keeps {a : Word} {s t : State} {v : Byte} (h : memRead a s = .ok (v, t)) : Keeps s t := by
  unfold memRead at h
  split at h
  · cases h; exact .refl _
  · rename_i p hr
    obtain rfl : t = (ioAnswer p s).2 := congrArg Prod.snd (ioRead_ok_iff.1 h).2
    exact ioAnswer_keeps p s
  · split at h <;> cases h
    · exact .refl _
    · exact .of_eq rfl rfl rfl rfl rfl rfl rfl
  · cases h; exact .of_eq rfl rfl rfl rfl rfl rfl rfl
  · cases h

/-- R51: RAM lies between `RAM_START` and `RAM_END`. -/
theorem route_ram {cfg : Config} {a : Word} (h : route cfg a = .ram) :
    cfg.ramStart ≤ a.toNat ∧ a.toNat ≤ cfg.ramEnd := by
  unfold route at h
  split at h
  · cases h
  · split at h
    · cases h
    · split at h
      · assumption
      · split at h <;> cases h

/-- R53: a write succeeds exactly where the data map gives the address a meaning and nothing is raised. -/
theorem memWrite_ok_iff (a : Word) (v : Byte) (s : State) :
    (∃ t, memWrite a v s = .ok t) ↔ Completes s.cfg s.events a := by
  unfold memWrite Completes
  cases route s.cfg a with
  | io p => simp only [ioWrite_ok_iff]; simp
  | _ => simp

/-- R53: what a write that does not succeed raises. -/
theorem memWrite_stops {a : Word} {v : Byte} {s : State} {f : Fault} (h : memWrite a v s = .error f) :
    (route s.cfg a = .unmapped ∧ f = .unmappedAccess a) ∨
      ∃ p, route s.cfg a = .io p ∧ deviceRaises s.cfg s.events p = true ∧ f = .deviceRaised (.ioWrite p v) := by
  unfold memWrite at h
  cases hr : route s.cfg a <;> simp only [hr] at h
  · cases h
  · rename_i p
    unfold ioWrite at h
    split at h
    · exact .inr ⟨p, rfl, ‹_›, (Except.error.inj h).symm⟩
    · cases h
  · cases h
  · cases h
  · exact .inl ⟨rfl, (Except.error.inj h).symm⟩

/-- R53: what ends with the fault of its write stops where the write does not complete. -/
theorem AccessStops.of_memWrite {a : Word} {v : Byte} {s : State} {r : Result}
    (h : ∀ f, memWrite a v s = .error f → r = .fault f) : AccessStops s.cfg s.events a (.ioWrite · v) r :=
  ⟨fun hr => h _ (by simp only [memWrite, hr]), fun p hr hd => h _ (by simp only [memWrite, hr, ioWrite, hd, if_true])⟩

/-- R53: what a write touches; in RAM, the one byte. -/
theorem memWrite_touches {a : Word} {v : Byte} {s t : State} (h : memWrite a v s = .ok t) :
    OnlyTouches (storeTouches s.cfg a) s t := by
  unfold memWrite at h
  unfold storeTouches
  cases hr : route s.cfg a <;> simp only [hr] at h ⊢
  · cases h
    exact (OnlyTouches.refl _ s).setReg (by simp) v
  · obtain ⟨-, rfl⟩ := ioWrite_ok_iff.1 h
    exact ioStore_touches _ v s
  · cases h
    constructor <;> intros <;> first | rfl | contradiction | skip
    rename_i b hb
    have hne : b ≠ a.toNat := fun e => hb (by simp [e])
    simp [State.ramByte, Memory.get_set_ram, hne]
  · cases h
    constructor <;> intros <;> first | rfl | contradiction
  · cases h

/-- R53: what one write of a data address hands the platform. -/
theorem memWrite_events {a : Word} {v : Byte} {s t : State} (h : memWrite a v s = .ok t) :
    t.events = writeEvents s.cfg a v ++ s.events := by
  unfold memWrite at h
  unfold writeEvents
  cases hr : route s.cfg a <;> simp only [hr] at h ⊢
  · cases h; rfl
  · obtain ⟨-, rfl⟩ := ioWrite_ok_iff.1 h
    exact ioStore_events _ v s
  · cases h; rfl
  · cases h; rfl
  · cases h

theorem memWrite_keeps {a : Word} {v : Byte} {s t : State} (h : memWrite a v s = .ok t) : Keeps s t := by
  unfold memWrite at h
  split at h
  · cases h; exact setReg_keeps _ _ _
  · obtain ⟨-, rfl⟩ := ioWrite_ok_iff.1 h
    exact ioStore_keeps _ _ _
  · rename_i hr
    cases h
    refine ⟨rfl, rfl, rfl, fun hi => { hi with ramCanonical := ?_, ramInRange := ?_ }⟩
    · exact Memory.wf_set hi.ramCanonical _ _
    · intro c hc
      rcases Memory.mem_set hc with ⟨rfl, _⟩ | hc
      · exact route_ram hr
      · exact hi.ramInRange c hc
  · cases h; exact .of_eq rfl rfl rfl rfl rfl rfl rfl
  · cases h

/-! ## The stack (R61 to R64) -/

theorem push_keeps {w0 : Option Word} {v : Byte} {s t : State} (h : push w0 v s = .ok t) : Keeps s t := by
  unfold push at h
  split at h
  · cases h
  · split at h
    · rename_i s1 hw
      cases h
      have hk := memWrite_keeps hw
      exact ⟨hk.cfg, hk.flash, hk.pc, fun hi => (hk.inv hi).withSp fun hb => moveSp_fits hb _ _⟩
    · cases h

theorem pop_keeps {v : Byte} {s t : State} (h : pop s = .ok (v, t)) : Keeps s t := by
  unfold pop at h
  refine Keeps.trans ?_ (memRead_keeps h)
  exact ⟨rfl, rfl, rfl, fun hi => hi.withSp fun hb => moveSp_fits hb _ _⟩

theorem pushAll_keeps {w0 : Option Word} {vs : List Byte} {s t : State} (h : pushAll w0 vs s = .ok t) :
    Keeps s t := by
  induction vs generalizing s with
  | nil => cases h; exact .refl _
  | cons v rest ih =>
    simp only [pushAll] at h
    split at h
    · rename_i s1 hp
      exact (push_keeps hp).trans (ih h)
    · cases h

theorem pushPc_keeps {w0 : Option Word} {w : PcWord} {s t : State} (h : pushPc w0 w s = .ok t) : Keeps s t := by
  unfold pushPc at h
  split at h
  · cases h
  · exact pushAll_keeps h

theorem popAll_keeps {n acc m : Nat} {s t : State} (h : popAll n acc s = .ok (m, t)) : Keeps s t := by
  induction n generalizing acc s with
  | zero => cases h; exact .refl _
  | succ n ih =>
    simp only [popAll] at h
    split at h
    · rename_i hp
      exact (pop_keeps hp).trans (ih h)
    · cases h

/-- R64: a popped program counter fits in `PC_BITS` bits. -/
theorem popPc_keeps {w : PcWord} {s t : State} (h : popPc s = .ok (w, t)) :
    Keeps s t ∧ ∃ n : Nat, w = truncPc s.cfg n := by
  unfold popPc at h
  split at h
  · rename_i n s1 hp
    cases h
    exact ⟨popAll_keeps hp, n, rfl⟩
  · cases h

end Sys2Proof.Machine
end

