-- ==== Sys2Proof/Laws/Operands.lean ====
section
/-! SUPPORT. For each operation of Machine/Operands.lean, of the return and of interrupt entry, once, what it can
do: where it succeeds, what its result is made of, and that it keeps the configuration, program memory and the
invariant. -/

namespace Sys2Proof.Machine

/-- As `Keeps`, for an operation that moves the program counter. -/
structure Moves (s t : State) : Prop where
  cfg : t.cfg = s.cfg
  flash : t.flash = s.flash
  inv : s.Inv → t.Inv

theorem Keeps.moves {s t : State} (h : Keeps s t) : Moves s t := ⟨h.cfg, h.flash, h.inv⟩

theorem Moves.trans {s t u : State} (h : Moves s t) (k : Moves t u) : Moves s u :=
  ⟨k.cfg.trans h.cfg, k.flash.trans h.flash, fun i => k.inv (h.inv i)⟩

/-- Setting the program counter to a reduced address. -/
theorem moves_pc (s : State) (z : Int) : Moves s { s with pc := truncPc s.cfg z } :=
  ⟨rfl, rfl, fun h => h.withPc z⟩

theorem advance_moves (s : State) (n : Nat) : Moves s (s.advance n) := moves_pc s _

/-- A program counter reduced for the configuration the state has had all along. -/
theorem Keeps.moves_pc {s t : State} (h : Keeps s t) (z : Int) : Moves s { t with pc := truncPc s.cfg z } :=
  ⟨h.cfg, h.flash, fun i => by
    rw [← h.cfg]
    exact (h.inv i).withPc z⟩

/-! ## Loads and stores -/

/-- What a load answers: the byte read, in the register. -/
theorem loadFrom_ok_iff {a : Word} {d : Reg} {s t : State} :
    loadFrom a d s = .ok t ↔ ∃ v u, memRead a s = .ok (v, u) ∧ t = u.setReg d v := by
  unfold loadFrom
  constructor
  · intro h
    split at h
    · rename_i v u hm
      exact ⟨v, u, hm, (Except.ok.inj h).symm⟩
    · cases h
  · rintro ⟨v, u, hm, rfl⟩
    rw [hm]

theorem loadFrom_keeps {a : Word} {d : Reg} {s t : State} (h : loadFrom a d s = .ok t) : Keeps s t := by
  obtain ⟨v, u, hm, rfl⟩ := loadFrom_ok_iff.1 h
  exact (memRead_keeps hm).trans (setReg_keeps _ _ _)

theorem storeTo_keeps {a : Word} {r : Reg} {s t : State} (h : storeTo a r s = .ok t) : Keeps s t :=
  memWrite_keeps h

/-- What a moving load answers, beside its undefined forms (R204). -/
theorem loadMoving_ok_iff {m : PointerMove} {p : Pointer} {d : Reg} {w0 : Word} {s t : State} :
    loadMoving m p d w0 s = .ok t ↔
      isUndefinedForm s.cfg p d (m.address (s.pointer p)) = false ∧
      ∃ u, loadFrom (m.address (s.pointer p)) d s = .ok u ∧ t = u.setPointer p (m.after (s.pointer p)) := by
  unfold loadMoving
  cases hu : isUndefinedForm s.cfg p d (m.address (s.pointer p))
  · constructor
    · intro h
      simp only [hu, Bool.false_eq_true, if_false] at h
      split at h
      · rename_i u hl
        exact ⟨rfl, u, hl, (Except.ok.inj h).symm⟩
      · cases h
    · rintro ⟨-, u, hl, rfl⟩
      simp [hu, hl]
  · simp [hu]

/-- What a moving store answers, beside its undefined forms (R204). -/
theorem storeMoving_ok_iff {m : PointerMove} {p : Pointer} {r : Reg} {w0 : Word} {s t : State} :
    storeMoving m p r w0 s = .ok t ↔
      isUndefinedForm s.cfg p r (m.address (s.pointer p)) = false ∧
      ∃ u, storeTo (m.address (s.pointer p)) r s = .ok u ∧ t = u.setPointer p (m.after (s.pointer p)) := by
  unfold storeMoving
  cases hu : isUndefinedForm s.cfg p r (m.address (s.pointer p))
  · constructor
    · intro h
      simp only [hu, Bool.false_eq_true, if_false] at h
      split at h
      · rename_i u hl
        exact ⟨rfl, u, hl, (Except.ok.inj h).symm⟩
      · cases h
    · rintro ⟨-, u, hl, rfl⟩
      simp [hu, hl]
  · simp [hu]

theorem setPointer_keeps (s : State) (p : Pointer) (v : Word) : Keeps s (s.setPointer p v) :=
  setPair_keeps _ _ _

theorem loadMoving_keeps {m : PointerMove} {p : Pointer} {d : Reg} {w0 : Word} {s t : State}
    (h : loadMoving m p d w0 s = .ok t) : Keeps s t := by
  obtain ⟨-, u, hl, rfl⟩ := loadMoving_ok_iff.1 h
  exact (loadFrom_keeps hl).trans (setPointer_keeps _ _ _)

theorem storeMoving_keeps {m : PointerMove} {p : Pointer} {r : Reg} {w0 : Word} {s t : State}
    (h : storeMoving m p r w0 s = .ok t) : Keeps s t := by
  obtain ⟨-, u, hl, rfl⟩ := storeMoving_ok_iff.1 h
  exact (storeTo_keeps hl).trans (setPointer_keeps _ _ _)

/-! ## The end of an instruction -/

theorem conclude_eq_next {e : Except Fault State} {t : State} : conclude e = .next t ↔ e = .ok t := by
  cases e <;> simp [conclude]

theorem concludeAfter_eq_next {n : Nat} {e : Except Fault State} {t : State} :
    concludeAfter n e = .next t ↔ ∃ u, e = .ok u ∧ t = u.advance n := by
  cases e <;> simp [concludeAfter, eq_comm]

/-! ## Skips, branches, calls, returns, interrupt entry -/

/-- R184: a skip moves the program counter by 1, 2 or 3, and does nothing else. -/
theorem skipIf_ok {c : Bool} {s t : State} (h : skipIf c s = .ok t) : ∃ n, t = s.advance n := by
  unfold skipIf at h
  split at h
  · split at h
    · split at h
      · exact ⟨_, (Except.ok.inj h).symm⟩
      · cases h
    · cases h
  · exact ⟨_, (Except.ok.inj h).symm⟩

/-- R185: a conditional branch moves the program counter, and does nothing else. -/
theorem branchIf_eq (c : Bool) (k : BitVec 7) (s : State) :
    branchIf c k s = { s with pc := if c then s.relTarget k.toInt else s.pcAfter 1 } := by
  cases c <;> rfl

theorem branchIf_moves (c : Bool) (k : BitVec 7) (s : State) : Moves s (branchIf c k s) := by
  unfold branchIf
  split
  · exact moves_pc s _
  · exact advance_moves s 1

theorem callTo_ok_iff {w0 : Word} {target : PcWord} {s t : State} :
    callTo w0 target s = .ok t ↔
      ∃ u, pushPc (some w0) (s.pcAfter 1) s = .ok u ∧ t = { u with pc := target } := by
  unfold callTo
  constructor
  · intro h
    split at h
    · rename_i u hp
      exact ⟨u, hp, (Except.ok.inj h).symm⟩
    · cases h
  · rintro ⟨u, hp, rfl⟩
    rw [hp]

theorem returnFromCall_ok_iff {s t : State} :
    returnFromCall s = .ok t ↔ ∃ w u, popPc s = .ok (w, u) ∧ t = { u with pc := w } := by
  unfold returnFromCall
  constructor
  · intro h
    split at h
    · rename_i w u hp
      exact ⟨w, u, hp, (Except.ok.inj h).symm⟩
    · cases h
  · rintro ⟨w, u, hp, rfl⟩
    rw [hp]

theorem returnFromCall_moves {s t : State} (h : returnFromCall s = .ok t) : Moves s t := by
  obtain ⟨w, u, hp, rfl⟩ := returnFromCall_ok_iff.1 h
  obtain ⟨hk, n, rfl⟩ := popPc_keeps hp
  exact hk.moves_pc n

theorem returnFromInterrupt_ok_iff {s t : State} :
    returnFromInterrupt s = .ok t ↔
      ∃ u, returnFromCall s = .ok u ∧ t = { u.setFlag .i true with irqInhibit := true } := by
  unfold returnFromInterrupt
  constructor
  · intro h
    split at h
    · rename_i u hp
      exact ⟨u, hp, (Except.ok.inj h).symm⟩
    · cases h
  · rintro ⟨u, hp, rfl⟩
    rw [hp]

theorem takeInterrupt_ok_iff {v : Nat} {s t : State} :
    takeInterrupt v s = .ok t ↔
      ∃ u, pushPc none s.pc s = .ok u ∧
        t = { u.setFlag .i false with
              sleeping := false
              pc := truncPc u.cfg ((v * u.cfg.vectorStride : Nat) : Int)
              events := .irqAccepted v :: u.events } := by
  unfold takeInterrupt
  constructor
  · intro h
    split at h
    · rename_i u hp
      exact ⟨u, hp, (Except.ok.inj h).symm⟩
    · cases h
  · rintro ⟨u, hp, rfl⟩
    rw [hp]

theorem takeInterrupt_moves {v : Nat} {s t : State} (h : takeInterrupt v s = .ok t) : Moves s t := by
  obtain ⟨u, hp, rfl⟩ := takeInterrupt_ok_iff.1 h
  have hk := pushPc_keeps hp
  refine ⟨hk.cfg, hk.flash, fun hi => ?_⟩
  have hu := (hk.inv hi).withPc ((v * u.cfg.vectorStride : Nat) : Int)
  exact { hu with sleepsByHold := fun h => by cases h }

/-- R46: the state after the reset event meets the invariant. -/
theorem takeReset_inv {s : State} (h : s.Inv) : (takeReset s).Inv where
  config := h.config
  pcFits := Nat.two_pow_pos _
  spFits hb := by
    change (resetSp s.cfg).toNat < 256
    have hb' : s.cfg.spWidth = .bits8 := hb
    simp only [resetSp, hb', BitVec.toNat_setWidth]
    omega
  ramCanonical := ⟨List.Pairwise.nil, fun _ hc => by cases hc⟩
  ramInRange _ hc := by cases hc
  flashCanonical := h.flashCanonical
  sleepsByHold h := by cases h
  stopsByStop h := by cases h

end Sys2Proof.Machine
end

