-- ==== Sys2Proof/Laws/PerInstr.lean ====
section
/-! SUPPORT. What holds of every instruction as syntax, one lemma per constructor: an instruction and the base
instruction that its word decodes to (spec/30_encoding.md R92) have the same words. -/

namespace Sys2Proof.Laws

/-- The base of a well-formed instruction is well formed, has the same words, and is its own base (R92). -/
def AliasWords.Statement (i : Instr) : Prop :=
  i.wellFormed = true → i.base.wellFormed = true ∧ encode i.base = encode i ∧ i.base.base = i.base

theorem AliasWords.add (d r : Reg) : AliasWords.Statement (.add d r) := fun h => ⟨h, rfl, rfl⟩
theorem AliasWords.adc (d r : Reg) : AliasWords.Statement (.adc d r) := fun h => ⟨h, rfl, rfl⟩
theorem AliasWords.adiw (d : Reg) (k : BitVec 6) : AliasWords.Statement (.adiw d k) := fun h => ⟨h, rfl, rfl⟩
theorem AliasWords.sub (d r : Reg) : AliasWords.Statement (.sub d r) := fun h => ⟨h, rfl, rfl⟩
theorem AliasWords.subi (d : Reg) (k : Byte) : AliasWords.Statement (.subi d k) := fun h => ⟨h, rfl, rfl⟩
theorem AliasWords.sbc (d r : Reg) : AliasWords.Statement (.sbc d r) := fun h => ⟨h, rfl, rfl⟩
theorem AliasWords.sbci (d : Reg) (k : Byte) : AliasWords.Statement (.sbci d k) := fun h => ⟨h, rfl, rfl⟩
theorem AliasWords.sbiw (d : Reg) (k : BitVec 6) : AliasWords.Statement (.sbiw d k) := fun h => ⟨h, rfl, rfl⟩
theorem AliasWords.and (d r : Reg) : AliasWords.Statement (.and d r) := fun h => ⟨h, rfl, rfl⟩
theorem AliasWords.andi (d : Reg) (k : Byte) : AliasWords.Statement (.andi d k) := fun h => ⟨h, rfl, rfl⟩
theorem AliasWords.or (d r : Reg) : AliasWords.Statement (.or d r) := fun h => ⟨h, rfl, rfl⟩
theorem AliasWords.ori (d : Reg) (k : Byte) : AliasWords.Statement (.ori d k) := fun h => ⟨h, rfl, rfl⟩
theorem AliasWords.eor (d r : Reg) : AliasWords.Statement (.eor d r) := fun h => ⟨h, rfl, rfl⟩
theorem AliasWords.com (d : Reg) : AliasWords.Statement (.com d) := fun h => ⟨h, rfl, rfl⟩
theorem AliasWords.neg (d : Reg) : AliasWords.Statement (.neg d) := fun h => ⟨h, rfl, rfl⟩
theorem AliasWords.sbr (d : Reg) (k : Byte) : AliasWords.Statement (.sbr d k) := fun h => ⟨h, rfl, rfl⟩
theorem AliasWords.cbr (d : Reg) (k : Byte) : AliasWords.Statement (.cbr d k) := fun h => ⟨h, rfl, rfl⟩
theorem AliasWords.inc (d : Reg) : AliasWords.Statement (.inc d) := fun h => ⟨h, rfl, rfl⟩
theorem AliasWords.dec (d : Reg) : AliasWords.Statement (.dec d) := fun h => ⟨h, rfl, rfl⟩
theorem AliasWords.tst (d : Reg) : AliasWords.Statement (.tst d) := fun h => ⟨h, rfl, rfl⟩
theorem AliasWords.clr (d : Reg) : AliasWords.Statement (.clr d) := fun h => ⟨h, rfl, rfl⟩
theorem AliasWords.ser (d : Reg) : AliasWords.Statement (.ser d) := fun h => ⟨h, rfl, rfl⟩
theorem AliasWords.rjmp (k : BitVec 12) : AliasWords.Statement (.rjmp k) := fun h => ⟨h, rfl, rfl⟩
theorem AliasWords.ijmp : AliasWords.Statement .ijmp := fun h => ⟨h, rfl, rfl⟩
theorem AliasWords.rcall (k : BitVec 12) : AliasWords.Statement (.rcall k) := fun h => ⟨h, rfl, rfl⟩
theorem AliasWords.icall : AliasWords.Statement .icall := fun h => ⟨h, rfl, rfl⟩
theorem AliasWords.ret : AliasWords.Statement .ret := fun h => ⟨h, rfl, rfl⟩
theorem AliasWords.reti : AliasWords.Statement .reti := fun h => ⟨h, rfl, rfl⟩
theorem AliasWords.cpse (d r : Reg) : AliasWords.Statement (.cpse d r) := fun h => ⟨h, rfl, rfl⟩
theorem AliasWords.cp (d r : Reg) : AliasWords.Statement (.cp d r) := fun h => ⟨h, rfl, rfl⟩
theorem AliasWords.cpc (d r : Reg) : AliasWords.Statement (.cpc d r) := fun h => ⟨h, rfl, rfl⟩
theorem AliasWords.cpi (d : Reg) (k : Byte) : AliasWords.Statement (.cpi d k) := fun h => ⟨h, rfl, rfl⟩
theorem AliasWords.sbrc (r : Reg) (b : BitNum) : AliasWords.Statement (.sbrc r b) := fun h => ⟨h, rfl, rfl⟩
theorem AliasWords.sbrs (r : Reg) (b : BitNum) : AliasWords.Statement (.sbrs r b) := fun h => ⟨h, rfl, rfl⟩
theorem AliasWords.sbic (a : IoLow) (b : BitNum) : AliasWords.Statement (.sbic a b) := fun h => ⟨h, rfl, rfl⟩
theorem AliasWords.sbis (a : IoLow) (b : BitNum) : AliasWords.Statement (.sbis a b) := fun h => ⟨h, rfl, rfl⟩
theorem AliasWords.brbs (n : BitNum) (k : BitVec 7) : AliasWords.Statement (.brbs n k) := fun h => ⟨h, rfl, rfl⟩
theorem AliasWords.brbc (n : BitNum) (k : BitVec 7) : AliasWords.Statement (.brbc n k) := fun h => ⟨h, rfl, rfl⟩
theorem AliasWords.breq (k : BitVec 7) : AliasWords.Statement (.breq k) := fun h => ⟨h, rfl, rfl⟩
theorem AliasWords.brne (k : BitVec 7) : AliasWords.Statement (.brne k) := fun h => ⟨h, rfl, rfl⟩
theorem AliasWords.brcs (k : BitVec 7) : AliasWords.Statement (.brcs k) := fun h => ⟨h, rfl, rfl⟩
theorem AliasWords.brcc (k : BitVec 7) : AliasWords.Statement (.brcc k) := fun h => ⟨h, rfl, rfl⟩
theorem AliasWords.brsh (k : BitVec 7) : AliasWords.Statement (.brsh k) := fun h => ⟨h, rfl, rfl⟩
theorem AliasWords.brlo (k : BitVec 7) : AliasWords.Statement (.brlo k) := fun h => ⟨h, rfl, rfl⟩
theorem AliasWords.brmi (k : BitVec 7) : AliasWords.Statement (.brmi k) := fun h => ⟨h, rfl, rfl⟩
theorem AliasWords.brpl (k : BitVec 7) : AliasWords.Statement (.brpl k) := fun h => ⟨h, rfl, rfl⟩
theorem AliasWords.brge (k : BitVec 7) : AliasWords.Statement (.brge k) := fun h => ⟨h, rfl, rfl⟩
theorem AliasWords.brlt (k : BitVec 7) : AliasWords.Statement (.brlt k) := fun h => ⟨h, rfl, rfl⟩
theorem AliasWords.brhs (k : BitVec 7) : AliasWords.Statement (.brhs k) := fun h => ⟨h, rfl, rfl⟩
theorem AliasWords.brhc (k : BitVec 7) : AliasWords.Statement (.brhc k) := fun h => ⟨h, rfl, rfl⟩
theorem AliasWords.brts (k : BitVec 7) : AliasWords.Statement (.brts k) := fun h => ⟨h, rfl, rfl⟩
theorem AliasWords.brtc (k : BitVec 7) : AliasWords.Statement (.brtc k) := fun h => ⟨h, rfl, rfl⟩
theorem AliasWords.brvs (k : BitVec 7) : AliasWords.Statement (.brvs k) := fun h => ⟨h, rfl, rfl⟩
theorem AliasWords.brvc (k : BitVec 7) : AliasWords.Statement (.brvc k) := fun h => ⟨h, rfl, rfl⟩
theorem AliasWords.brie (k : BitVec 7) : AliasWords.Statement (.brie k) := fun h => ⟨h, rfl, rfl⟩
theorem AliasWords.brid (k : BitVec 7) : AliasWords.Statement (.brid k) := fun h => ⟨h, rfl, rfl⟩
theorem AliasWords.mov (d r : Reg) : AliasWords.Statement (.mov d r) := fun h => ⟨h, rfl, rfl⟩
theorem AliasWords.ldi (d : Reg) (k : Byte) : AliasWords.Statement (.ldi d k) := fun h => ⟨h, rfl, rfl⟩
theorem AliasWords.lds (d : Reg) (k : Word) : AliasWords.Statement (.lds d k) := fun h => ⟨h, rfl, rfl⟩
theorem AliasWords.ldX (d : Reg) : AliasWords.Statement (.ldX d) := fun h => ⟨h, rfl, rfl⟩
theorem AliasWords.ldXInc (d : Reg) : AliasWords.Statement (.ldXInc d) := fun h => ⟨h, rfl, rfl⟩
theorem AliasWords.ldXDec (d : Reg) : AliasWords.Statement (.ldXDec d) := fun h => ⟨h, rfl, rfl⟩
theorem AliasWords.ldY (d : Reg) : AliasWords.Statement (.ldY d) := fun h => ⟨h, rfl, rfl⟩
theorem AliasWords.ldYInc (d : Reg) : AliasWords.Statement (.ldYInc d) := fun h => ⟨h, rfl, rfl⟩
theorem AliasWords.ldYDec (d : Reg) : AliasWords.Statement (.ldYDec d) := fun h => ⟨h, rfl, rfl⟩
theorem AliasWords.lddY (d : Reg) (q : BitVec 6) : AliasWords.Statement (.lddY d q) := by
  intro _
  by_cases h : q = 0
  · subst h; simp [Instr.base, Instr.wellFormed, encode, encodeWord]
  · have e : (Instr.lddY d q).base = .lddY d q := if_neg h
    rw [e]
    exact ⟨rfl, rfl, e⟩
theorem AliasWords.ldZ (d : Reg) : AliasWords.Statement (.ldZ d) := fun h => ⟨h, rfl, rfl⟩
theorem AliasWords.ldZInc (d : Reg) : AliasWords.Statement (.ldZInc d) := fun h => ⟨h, rfl, rfl⟩
theorem AliasWords.ldZDec (d : Reg) : AliasWords.Statement (.ldZDec d) := fun h => ⟨h, rfl, rfl⟩
theorem AliasWords.lddZ (d : Reg) (q : BitVec 6) : AliasWords.Statement (.lddZ d q) := by
  intro _
  by_cases h : q = 0
  · subst h; simp [Instr.base, Instr.wellFormed, encode, encodeWord]
  · have e : (Instr.lddZ d q).base = .lddZ d q := if_neg h
    rw [e]
    exact ⟨rfl, rfl, e⟩
theorem AliasWords.sts (k : Word) (r : Reg) : AliasWords.Statement (.sts k r) := fun h => ⟨h, rfl, rfl⟩
theorem AliasWords.stX (r : Reg) : AliasWords.Statement (.stX r) := fun h => ⟨h, rfl, rfl⟩
theorem AliasWords.stXInc (r : Reg) : AliasWords.Statement (.stXInc r) := fun h => ⟨h, rfl, rfl⟩
theorem AliasWords.stXDec (r : Reg) : AliasWords.Statement (.stXDec r) := fun h => ⟨h, rfl, rfl⟩
theorem AliasWords.stY (r : Reg) : AliasWords.Statement (.stY r) := fun h => ⟨h, rfl, rfl⟩
theorem AliasWords.stYInc (r : Reg) : AliasWords.Statement (.stYInc r) := fun h => ⟨h, rfl, rfl⟩
theorem AliasWords.stYDec (r : Reg) : AliasWords.Statement (.stYDec r) := fun h => ⟨h, rfl, rfl⟩
theorem AliasWords.stdY (q : BitVec 6) (r : Reg) : AliasWords.Statement (.stdY q r) := by
  intro _
  by_cases h : q = 0
  · subst h; simp [Instr.base, Instr.wellFormed, encode, encodeWord]
  · have e : (Instr.stdY q r).base = .stdY q r := if_neg h
    rw [e]
    exact ⟨rfl, rfl, e⟩
theorem AliasWords.stZ (r : Reg) : AliasWords.Statement (.stZ r) := fun h => ⟨h, rfl, rfl⟩
theorem AliasWords.stZInc (r : Reg) : AliasWords.Statement (.stZInc r) := fun h => ⟨h, rfl, rfl⟩
theorem AliasWords.stZDec (r : Reg) : AliasWords.Statement (.stZDec r) := fun h => ⟨h, rfl, rfl⟩
theorem AliasWords.stdZ (q : BitVec 6) (r : Reg) : AliasWords.Statement (.stdZ q r) := by
  intro _
  by_cases h : q = 0
  · subst h; simp [Instr.base, Instr.wellFormed, encode, encodeWord]
  · have e : (Instr.stdZ q r).base = .stdZ q r := if_neg h
    rw [e]
    exact ⟨rfl, rfl, e⟩
theorem AliasWords.lpm : AliasWords.Statement .lpm := fun h => ⟨h, rfl, rfl⟩
theorem AliasWords.inp (d : Reg) (a : IoAddr) : AliasWords.Statement (.inp d a) := fun h => ⟨h, rfl, rfl⟩
theorem AliasWords.out (a : IoAddr) (r : Reg) : AliasWords.Statement (.out a r) := fun h => ⟨h, rfl, rfl⟩
theorem AliasWords.push (r : Reg) : AliasWords.Statement (.push r) := fun h => ⟨h, rfl, rfl⟩
theorem AliasWords.pop (d : Reg) : AliasWords.Statement (.pop d) := fun h => ⟨h, rfl, rfl⟩
theorem AliasWords.lsl (d : Reg) : AliasWords.Statement (.lsl d) := fun h => ⟨h, rfl, rfl⟩
theorem AliasWords.lsr (d : Reg) : AliasWords.Statement (.lsr d) := fun h => ⟨h, rfl, rfl⟩
theorem AliasWords.rol (d : Reg) : AliasWords.Statement (.rol d) := fun h => ⟨h, rfl, rfl⟩
theorem AliasWords.ror (d : Reg) : AliasWords.Statement (.ror d) := fun h => ⟨h, rfl, rfl⟩
theorem AliasWords.asr (d : Reg) : AliasWords.Statement (.asr d) := fun h => ⟨h, rfl, rfl⟩
theorem AliasWords.swap (d : Reg) : AliasWords.Statement (.swap d) := fun h => ⟨h, rfl, rfl⟩
theorem AliasWords.sbi (a : IoLow) (b : BitNum) : AliasWords.Statement (.sbi a b) := fun h => ⟨h, rfl, rfl⟩
theorem AliasWords.cbi (a : IoLow) (b : BitNum) : AliasWords.Statement (.cbi a b) := fun h => ⟨h, rfl, rfl⟩
theorem AliasWords.bst (r : Reg) (b : BitNum) : AliasWords.Statement (.bst r b) := fun h => ⟨h, rfl, rfl⟩
theorem AliasWords.bld (d : Reg) (b : BitNum) : AliasWords.Statement (.bld d b) := fun h => ⟨h, rfl, rfl⟩
theorem AliasWords.bset (n : BitNum) : AliasWords.Statement (.bset n) := fun h => ⟨h, rfl, rfl⟩
theorem AliasWords.bclr (n : BitNum) : AliasWords.Statement (.bclr n) := fun h => ⟨h, rfl, rfl⟩
theorem AliasWords.sec : AliasWords.Statement .sec := fun h => ⟨h, rfl, rfl⟩
theorem AliasWords.clc : AliasWords.Statement .clc := fun h => ⟨h, rfl, rfl⟩
theorem AliasWords.sen : AliasWords.Statement .sen := fun h => ⟨h, rfl, rfl⟩
theorem AliasWords.cln : AliasWords.Statement .cln := fun h => ⟨h, rfl, rfl⟩
theorem AliasWords.sez : AliasWords.Statement .sez := fun h => ⟨h, rfl, rfl⟩
theorem AliasWords.clz : AliasWords.Statement .clz := fun h => ⟨h, rfl, rfl⟩
theorem AliasWords.sei : AliasWords.Statement .sei := fun h => ⟨h, rfl, rfl⟩
theorem AliasWords.cli : AliasWords.Statement .cli := fun h => ⟨h, rfl, rfl⟩
theorem AliasWords.ses : AliasWords.Statement .ses := fun h => ⟨h, rfl, rfl⟩
theorem AliasWords.cls : AliasWords.Statement .cls := fun h => ⟨h, rfl, rfl⟩
theorem AliasWords.sev : AliasWords.Statement .sev := fun h => ⟨h, rfl, rfl⟩
theorem AliasWords.clv : AliasWords.Statement .clv := fun h => ⟨h, rfl, rfl⟩
theorem AliasWords.set : AliasWords.Statement .set := fun h => ⟨h, rfl, rfl⟩
theorem AliasWords.clt : AliasWords.Statement .clt := fun h => ⟨h, rfl, rfl⟩
theorem AliasWords.seh : AliasWords.Statement .seh := fun h => ⟨h, rfl, rfl⟩
theorem AliasWords.clh : AliasWords.Statement .clh := fun h => ⟨h, rfl, rfl⟩
theorem AliasWords.brk : AliasWords.Statement .brk := fun h => ⟨h, rfl, rfl⟩
theorem AliasWords.nop : AliasWords.Statement .nop := fun h => ⟨h, rfl, rfl⟩
theorem AliasWords.sleep : AliasWords.Statement .sleep := fun h => ⟨h, rfl, rfl⟩
theorem AliasWords.wdr : AliasWords.Statement .wdr := fun h => ⟨h, rfl, rfl⟩

end Sys2Proof.Laws
end

