-- ==== Sys2Proof/Laws/Run.lean ====
section
/-! SUPPORT. What a fetch answers, and, once, everything a step can do. -/

namespace Sys2Proof.Machine

/-- The second word a fetch uses: the next program word of a two-word instruction, else 0 (R13). -/
def secondWord (s : State) (w0 w1 : Word) : Prop :=
  if isTwoWord w0 then progWord s (s.pcAfter 1) = .ok w1 else w1 = 0

/-- R13: what a successful fetch read. -/
theorem fetch_ok_iff {s : State} {i : Instr} :
    fetch s = .ok i ↔
      ∃ w0 w1, progWord s s.pc = .ok w0 ∧ secondWord s w0 w1 ∧ decodeWord w0 w1 = some i := by
  unfold fetch
  constructor
  · intro h
    split at h
    · cases h
    · rename_i w0 hp
      split at h
      · rename_i h2
        split at h
        · cases h
        · rename_i w1 hp1
          split at h
          · rename_i hd
            cases h
            exact ⟨w0, w1, hp, by simp [secondWord, h2, hp1], hd⟩
          · cases h
      · rename_i h2
        split at h
        · rename_i hd
          cases h
          exact ⟨w0, 0, hp, by simp [secondWord, h2], hd⟩
        · cases h
  · rintro ⟨w0, w1, hp, hs, hd⟩
    unfold secondWord at hs
    split at hs
    · rename_i h2
      simp [hp, h2, hs, hd]
    · rename_i h2
      subst hs
      have hd' : decodeWord w0 0#16 = some i := hd
      simp [hp, h2, hd']

/-- R325, R330: everything a step can do: the reset event, the end of the run, interrupt entry, a step asleep, or
the fetched instruction. -/
theorem stepWith_next {p : PlatformInput} {s t : State} (h : stepWith p s = .next t) :
    (p.reset = true ∧ t = takeReset s) ∨
    (p.reset = false ∧ s.stopped = true ∧ t = s) ∨
    (p.reset = false ∧ s.stopped = false ∧ ∃ v, interruptTaken p.requests s = some v ∧ takeInterrupt v s = .ok t) ∨
    (p.reset = false ∧ s.stopped = false ∧ interruptTaken p.requests s = none ∧ s.sleeping = true ∧
      t = { s with irqInhibit := false }) ∨
    (p.reset = false ∧ s.stopped = false ∧ interruptTaken p.requests s = none ∧ s.sleeping = false ∧
      ∃ i, fetch { s with irqInhibit := false } = .ok i ∧ exec i { s with irqInhibit := false } = .next t) := by
  unfold stepWith at h
  split at h
  · rename_i hr
    exact .inl ⟨hr, (Host.Outcome.next.inj h).symm⟩
  rename_i hr
  replace hr : p.reset = false := by simpa using hr
  split at h
  · rename_i hs
    exact .inr (.inl ⟨hr, hs, (Host.Outcome.next.inj h).symm⟩)
  rename_i hs
  replace hs : s.stopped = false := by simpa using hs
  split at h
  · rename_i v hv
    exact .inr (.inr (.inl ⟨hr, hs, v, hv, conclude_eq_next.1 h⟩))
  rename_i hv
  split at h
  · rename_i hl
    exact .inr (.inr (.inr (.inl ⟨hr, hs, hv, hl, (Host.Outcome.next.inj h).symm⟩)))
  rename_i hl
  replace hl : s.sleeping = false := by simpa using hl
  refine .inr (.inr (.inr (.inr ⟨hr, hs, hv, hl, ?_⟩)))
  unfold runInstr at h
  split at h
  · rename_i i hf
    exact ⟨i, hf, h⟩
  · cases h

theorem nextInput_cons {s : State} {p : PlatformInput} {rest : List PlatformInput} (h : s.inputs = p :: rest) :
    nextInput s = (p, { s with inputs := rest }) := by
  simp [nextInput, h]

theorem nextInput_nil {s : State} (h : s.inputs = []) : nextInput s = (PlatformInput.quiet, s) := by
  simp [nextInput, h]

/-- Taking the platform's answer changes nothing but the answers still to come. -/
theorem nextInput_keeps (s : State) : Keeps s (nextInput s).2 := by
  unfold nextInput
  split
  · exact .refl _
  · exact .of_eq rfl rfl rfl rfl rfl rfl rfl

/-- Clearing `irq_inhibit` at the boundary (R325). -/
theorem clearInhibit_keeps (s : State) : Keeps s { s with irqInhibit := false } :=
  .of_eq rfl rfl rfl rfl rfl rfl rfl

end Sys2Proof.Machine
end

