-- ==== Sys2Proof/Tests/Slice0.lean ====
section
/-! SUPPORT. The model's own tests: the well-formedness checks refuse ill-formed terms, a word of every row decodes,
one step of every instruction on the values of spec/95_test_vectors.md and the examples of the instruction
rules, and, for every statement that has hypotheses, a state and operands that meet them. -/

namespace Sys2Proof.Tests

open Sys2Proof Sys2Proof.Machine

/-! ## Well-formedness (R87): each check refuses an ill-formed term -/

theorem test_wellFormed_refuses_low_register :
    [Instr.subi 15 0, .sbci 0 0, .andi 15 0, .ori 15 0, .sbr 15 0, .cbr 15 0, .ser 15, .cpi 15 0, .ldi 15 0].all
      (fun i => !i.wellFormed) = true := by decide

theorem test_wellFormed_refuses_odd_or_low_pair :
    [Instr.adiw 25 1, .adiw 22 1, .adiw 31 1, .sbiw 27 1, .sbiw 0 1].all (fun i => !i.wellFormed) = true := by
  decide

theorem test_wellFormed_admits_the_ends :
    [Instr.subi 16 0xFF, .ldi 31 0, .adiw 24 63, .sbiw 30 0].all (fun i => i.wellFormed) = true := by decide

/-! ## Decoding: one word of every row of spec/opcode_table.json, its fields written out in binary; the rows that
are another name of a row's words decode to that row -/

theorem test_decode_table1_arithmetic_and_logic : [
    (16, 0b0000111101010010, Instr.add 21 18),  -- add
    (16, 0b0001110010101101, Instr.adc 10 13),  -- adc
    (16, 0b1001011010101101, Instr.adiw 28 45),  -- adiw
    (16, 0b0001101011001010, Instr.sub 12 26),  -- sub
    (16, 0b0101001001011101, Instr.subi 21 0x2D),  -- subi
    (16, 0b0000101101010010, Instr.sbc 21 18),  -- sbc
    (16, 0b0100011000111010, Instr.sbci 19 0x6A),  -- sbci
    (16, 0b1001011101100011, Instr.sbiw 28 19),  -- sbiw
    (16, 0b0010001011001010, Instr.and 12 26),  -- and
    (16, 0b0111101110100100, Instr.andi 26 0xB4),  -- andi
    (16, 0b0010101101010010, Instr.or 21 18),  -- or
    (16, 0b0110100111110011, Instr.ori 31 0x93),  -- ori
    (16, 0b0010010100110101, Instr.eor 19 5),  -- eor
    (16, 0b1001010011000000, Instr.com 12),  -- com
    (16, 0b1001010110010001, Instr.neg 25),  -- neg
    (16, 0b0110100111110011, Instr.ori 31 0x93),  -- sbr
    (16, 0b0111001001011101, Instr.andi 21 0x2D),  -- cbr
    (16, 0b1001010100110011, Instr.inc 19),  -- inc
    (16, 0b1001010011001010, Instr.dec 12),  -- dec
    (16, 0b0010001110011001, Instr.and 25 25),  -- tst
    (16, 0b0010011101010101, Instr.eor 21 21),  -- clr
    (16, 0b1110111110101111, Instr.ldi 26 0xFF)  -- ser
  ].all (fun p => decodeTableWord p.1 p.2.1 == some p.2.2) = true := by decide

theorem test_decode_table2_branch : [
    (16, 0b1100110100101101, Instr.rjmp (BitVec.ofInt 12 (-723))),  -- rjmp
    (16, 0b1001010000001001, Instr.ijmp),  -- ijmp
    (16, 0b1101110100101101, Instr.rcall (BitVec.ofInt 12 (-723))),  -- rcall
    (16, 0b1001010100001001, Instr.icall),  -- icall
    (16, 0b1001010100001000, Instr.ret),  -- ret
    (16, 0b1001010100011000, Instr.reti),  -- reti
    (16, 0b0001001011001010, Instr.cpse 12 26),  -- cpse
    (16, 0b0001010110011011, Instr.cp 25 11),  -- cp
    (16, 0b0000011101010010, Instr.cpc 21 18),  -- cpc
    (16, 0b0011100111110011, Instr.cpi 31 0x93),  -- cpi
    (16, 0b1111110100110101, Instr.sbrc 19 5),  -- sbrc
    (16, 0b1111111011000011, Instr.sbrs 12 3),  -- sbrs
    (16, 0b1001100110101110, Instr.sbic 21 6),  -- sbic
    (16, 0b1001101101011001, Instr.sbis 11 1),  -- sbis
    (16, 0b1111001101101101, Instr.brbs 5 (BitVec.ofInt 7 (-19))),  -- brbs
    (16, 0b1111010101101011, Instr.brbc 3 (BitVec.ofInt 7 (45))),  -- brbc
    (16, 0b1111001011010001, Instr.brbs 1 (BitVec.ofInt 7 (-38))),  -- breq
    (16, 0b1111010010110001, Instr.brbc 1 (BitVec.ofInt 7 (22))),  -- brne
    (16, 0b1111001101101000, Instr.brbs 0 (BitVec.ofInt 7 (-19))),  -- brcs
    (16, 0b1111010101101000, Instr.brbc 0 (BitVec.ofInt 7 (45))),  -- brcc
    (16, 0b1111011011010000, Instr.brbc 0 (BitVec.ofInt 7 (-38))),  -- brsh
    (16, 0b1111000010110000, Instr.brbs 0 (BitVec.ofInt 7 (22))),  -- brlo
    (16, 0b1111001101101010, Instr.brbs 2 (BitVec.ofInt 7 (-19))),  -- brmi
    (16, 0b1111010101101010, Instr.brbc 2 (BitVec.ofInt 7 (45))),  -- brpl
    (16, 0b1111011011010100, Instr.brbc 4 (BitVec.ofInt 7 (-38))),  -- brge
    (16, 0b1111000010110100, Instr.brbs 4 (BitVec.ofInt 7 (22))),  -- brlt
    (16, 0b1111001101101101, Instr.brbs 5 (BitVec.ofInt 7 (-19))),  -- brhs
    (16, 0b1111010101101101, Instr.brbc 5 (BitVec.ofInt 7 (45))),  -- brhc
    (16, 0b1111001011010110, Instr.brbs 6 (BitVec.ofInt 7 (-38))),  -- brts
    (16, 0b1111010010110110, Instr.brbc 6 (BitVec.ofInt 7 (22))),  -- brtc
    (16, 0b1111001101101011, Instr.brbs 3 (BitVec.ofInt 7 (-19))),  -- brvs
    (16, 0b1111010101101011, Instr.brbc 3 (BitVec.ofInt 7 (45))),  -- brvc
    (16, 0b1111001011010111, Instr.brbs 7 (BitVec.ofInt 7 (-38))),  -- brie
    (16, 0b1111010010110111, Instr.brbc 7 (BitVec.ofInt 7 (22)))  -- brid
  ].all (fun p => decodeTableWord p.1 p.2.1 == some p.2.2) = true := by decide

theorem test_decode_table3_data_transfer : [
    (16, 0b0010110010101101, Instr.mov 10 13),  -- mov
    (16, 0b1110101110100100, Instr.ldi 26 0xB4),  -- ldi
    (32, 0xA5C30000 + 0b1001000011000000, Instr.lds 12 0xA5C3),  -- lds
    (16, 0b1001000110011100, Instr.ldX 25),  -- ldX
    (16, 0b1001000101011101, Instr.ldXInc 21),  -- ldXInc
    (16, 0b1001000010101110, Instr.ldXDec 10),  -- ldXDec
    (16, 0b1000000100111000, Instr.ldY 19),  -- ldY
    (16, 0b1001000011001001, Instr.ldYInc 12),  -- ldYInc
    (16, 0b1001000110011010, Instr.ldYDec 25),  -- ldYDec
    (16, 0b1000100101011011, Instr.lddY 21 19),  -- lddY
    (16, 0b1000000010100000, Instr.ldZ 10),  -- ldZ
    (16, 0b1001000100110001, Instr.ldZInc 19),  -- ldZInc
    (16, 0b1001000011000010, Instr.ldZDec 12),  -- ldZDec
    (16, 0b1000100110010011, Instr.lddZ 25 19),  -- lddZ
    (32, 0xA5C30000 + 0b1001001101010000, Instr.sts 0xA5C3 21),  -- sts
    (16, 0b1001001010101100, Instr.stX 10),  -- stX
    (16, 0b1001001100111101, Instr.stXInc 19),  -- stXInc
    (16, 0b1001001011001110, Instr.stXDec 12),  -- stXDec
    (16, 0b1000001110011000, Instr.stY 25),  -- stY
    (16, 0b1001001101011001, Instr.stYInc 21),  -- stYInc
    (16, 0b1001001010101010, Instr.stYDec 10),  -- stYDec
    (16, 0b1000101100111011, Instr.stdY 19 19),  -- stdY
    (16, 0b1000001011000000, Instr.stZ 12),  -- stZ
    (16, 0b1001001110010001, Instr.stZInc 25),  -- stZInc
    (16, 0b1001001101010010, Instr.stZDec 21),  -- stZDec
    (16, 0b1000101010100011, Instr.stdZ 19 10),  -- stdZ
    (16, 0b1001010111001000, Instr.lpm),  -- lpm
    (16, 0b1011001011000011, Instr.inp 12 19),  -- inp
    (16, 0b1011110110011101, Instr.out 45 25),  -- out
    (16, 0b1001001101011111, Instr.push 21),  -- push
    (16, 0b1001000010101111, Instr.pop 10)  -- pop
  ].all (fun p => decodeTableWord p.1 p.2.1 == some p.2.2) = true := by decide

theorem test_decode_table4_bits : [
    (16, 0b0000111100110011, Instr.add 19 19),  -- lsl
    (16, 0b1001010011000110, Instr.lsr 12),  -- lsr
    (16, 0b0001111110011001, Instr.adc 25 25),  -- rol
    (16, 0b1001010101010111, Instr.ror 21),  -- ror
    (16, 0b1001010010100101, Instr.asr 10),  -- asr
    (16, 0b1001010100110010, Instr.swap 19),  -- swap
    (16, 0b1001101001011011, Instr.sbi 11 3),  -- sbi
    (16, 0b1001100010101110, Instr.cbi 21 6),  -- cbi
    (16, 0b1111101101010001, Instr.bst 21 1),  -- bst
    (16, 0b1111100010100101, Instr.bld 10 5),  -- bld
    (16, 0b1001010000111000, Instr.bset 3),  -- bset
    (16, 0b1001010011101000, Instr.bclr 6),  -- bclr
    (16, 0b1001010000001000, Instr.bset 0),  -- sec
    (16, 0b1001010010001000, Instr.bclr 0),  -- clc
    (16, 0b1001010000101000, Instr.bset 2),  -- sen
    (16, 0b1001010010101000, Instr.bclr 2),  -- cln
    (16, 0b1001010000011000, Instr.bset 1),  -- sez
    (16, 0b1001010010011000, Instr.bclr 1),  -- clz
    (16, 0b1001010001111000, Instr.bset 7),  -- sei
    (16, 0b1001010011111000, Instr.bclr 7),  -- cli
    (16, 0b1001010001001000, Instr.bset 4),  -- ses
    (16, 0b1001010011001000, Instr.bclr 4),  -- cls
    (16, 0b1001010000111000, Instr.bset 3),  -- sev
    (16, 0b1001010010111000, Instr.bclr 3),  -- clv
    (16, 0b1001010001101000, Instr.bset 6),  -- set
    (16, 0b1001010011101000, Instr.bclr 6),  -- clt
    (16, 0b1001010001011000, Instr.bset 5),  -- seh
    (16, 0b1001010011011000, Instr.bclr 5)  -- clh
  ].all (fun p => decodeTableWord p.1 p.2.1 == some p.2.2) = true := by decide

theorem test_decode_table5_mcu_control : [
    (16, 0b1001010110011000, Instr.brk),  -- brk
    (16, 0b0000000000000000, Instr.nop),  -- nop
    (16, 0b1001010110001000, Instr.sleep),  -- sleep
    (16, 0b1001010110101000, Instr.wdr)  -- wdr
  ].all (fun p => decodeTableWord p.1 p.2.1 == some p.2.2) = true := by decide

/-- R100, spec/95_test_vectors.md section 6: illegal first words. -/
theorem test_illegal_words :
    [0x0001, 0x00FF, 0x0100, 0x01FF, 0x0200, 0x0300, 0x03FF, 0x9003, 0x9008, 0x900B, 0x9004, 0x9005, 0x9006, 0x9007,
      0x9204, 0x9404, 0x940B, 0x9419, 0x9519, 0x940C, 0x940E, 0x9528, 0x95B8, 0x95F8, 0x95D8, 0x95E8, 0x9C00, 0xF808,
      0xFF08, 0xFFFF].all (fun w => decodeTableWord 16 w == none) = true := by decide

/-- R90, spec/95_test_vectors.md section 6: a displacement of 0 is the plain form. -/
theorem test_decode_zero_displacement :
    decodeTableWord 16 0x8050 = some (.ldZ 5) ∧ decodeTableWord 16 0x8058 = some (.ldY 5) := by decide

/-! ## One step of every instruction (spec/95_test_vectors.md; the expected values are the spec's) -/

/-- REFCFG's core with SP at the top of RAM, as spec/95_test_vectors.md assumes. -/
def cpu : State := { State.reset with sp := 0x025F }

/-- The core with some registers and SREG given. -/
def core (rs : List (Reg × Byte)) (sreg : Byte) : State :=
  rs.foldl (fun s p => s.setReg p.1 p.2) { cpu with sreg := sreg }

/-- The next state has the property. -/
def sees (r : Result) (p : State → Bool) : Bool :=
  match r with
  | .next t => p t
  | .fault _ => false
  | .refused _ => false

/-- The outcome is this fault. -/
def faults (r : Result) (f : Fault) : Bool :=
  match r with
  | .next _ => false
  | .fault g => g == f
  | .refused _ => false

/-- The outcome is this refusal. -/
def refuses (r : Result) (f : Refusal) : Bool :=
  match r with
  | .next _ => false
  | .fault _ => false
  | .refused g => g == f

/-- A register and SREG after an instruction that goes to the next word. -/
def gives (i : Instr) (rs : List (Reg × Byte)) (sreg : Byte) (d : Reg) (v sreg' : Byte) : Bool :=
  sees (exec i (core rs sreg)) fun t => t.reg d == v && t.sreg == sreg' && t.pc == 1

theorem test_add :
    (gives (.add 1 2) [(1, 0x7F), (2, 0x01)] 0x00 1 0x80 0x2C &&
     gives (.add 1 2) [(1, 0x0F), (2, 0x01)] 0xC0 1 0x10 0xE0) = true := by decide

theorem test_adc :
    (gives (.adc 1 2) [(1, 0xFF), (2, 0x00)] 0x01 1 0x00 0x23 &&
     gives (.adc 1 2) [(1, 0x7F), (2, 0x7F)] 0x01 1 0xFF 0x2C) = true := by decide

theorem test_adiw :
    (gives (.adiw 26 63) [(26, 0xC1), (27, 0x7F)] 0x00 27 0x80 0x0C &&
     gives (.adiw 24 1) [(24, 0xFF), (25, 0xFF)] 0x00 24 0x00 0x03) = true := by decide

theorem test_sub :
    (gives (.sub 1 2) [(1, 0x80), (2, 0x01)] 0x00 1 0x7F 0x38 &&
     gives (.sub 3 3) [(3, 0xA7)] 0x1D 3 0x00 0x02) = true := by decide

theorem test_subi :
    (gives (.subi 31 0xFF) [(31, 0x00)] 0x00 31 0x01 0x21) = true := by decide

theorem test_sbc_keeps_zero :
    (gives (.sbc 1 2) [(1, 0x01), (2, 0x00)] 0x03 1 0x00 0x02 &&
     gives (.sbc 1 2) [(1, 0x01), (2, 0x00)] 0x01 1 0x00 0x00) = true := by decide

theorem test_sbci :
    (gives (.sbci 17 0x7F) [(17, 0x80)] 0x01 17 0x00 0x38) = true := by decide

theorem test_sbiw :
    (gives (.sbiw 26 1) [(26, 0x00), (27, 0x80)] 0x00 27 0x7F 0x18 &&
     gives (.sbiw 24 1) [] 0x00 25 0xFF 0x15) = true := by decide

theorem test_and :
    (gives (.and 1 2) [(1, 0xF0), (2, 0x8F)] 0x09 1 0x80 0x15) = true := by decide

theorem test_andi :
    (gives (.andi 16 0x00) [(16, 0xA5)] 0xFF 16 0x00 0xE3) = true := by decide

theorem test_or :
    (gives (.or 1 2) [(1, 0x80), (2, 0x01)] 0x08 1 0x81 0x14) = true := by decide

theorem test_ori :
    (gives (.ori 16 0x80) [(16, 0x01)] 0x00 16 0x81 0x14) = true := by decide

theorem test_eor :
    (gives (.eor 1 2) [(1, 0xFF), (2, 0x0F)] 0x01 1 0xF0 0x15) = true := by decide

theorem test_com :
    (gives (.com 31) [(31, 0x00)] 0x20 31 0xFF 0x35) = true := by decide

theorem test_neg :
    (gives (.neg 0) [(0, 0x80)] 0x00 0 0x80 0x0D &&
     gives (.neg 0) [(0, 0x10)] 0x00 0 0xF0 0x15) = true := by decide

theorem test_sbr :
    (gives (.sbr 16 0x81) [(16, 0x10)] 0x00 16 0x91 0x14) = true := by decide

theorem test_cbr :
    (gives (.cbr 16 0x0F) [(16, 0xFF)] 0x08 16 0xF0 0x14) = true := by decide

theorem test_inc :
    (gives (.inc 0) [(0, 0x7F)] 0x01 0 0x80 0x0D) = true := by decide

theorem test_dec :
    (gives (.dec 0) [(0, 0x80)] 0x00 0 0x7F 0x18) = true := by decide

theorem test_tst :
    (gives (.tst 7) [(7, 0x80)] 0x09 7 0x80 0x15) = true := by decide

theorem test_clr :
    (gives (.clr 7) [(7, 0xAB)] 0x0D 7 0x00 0x03) = true := by decide

theorem test_ser :
    (gives (.ser 17) [] 0xFF 17 0xFF 0xFF) = true := by decide

theorem test_cp :
    (gives (.cp 1 2) [(1, 0x80), (2, 0x7F)] 0x00 1 0x80 0x38) = true := by decide

theorem test_cpc :
    (gives (.cpc 3 4) [(3, 0x12), (4, 0x12)] 0x03 3 0x12 0x35 &&
     gives (.cpc 3 4) [(3, 0x12), (4, 0x12)] 0x02 3 0x12 0x02) = true := by decide

theorem test_cpi :
    (gives (.cpi 16 10) [(16, 9)] 0x00 16 9 0x35) = true := by decide

theorem test_mov :
    (gives (.mov 31 0) [(0, 0xAB)] 0xFF 31 0xAB 0xFF) = true := by decide

theorem test_ldi :
    (gives (.ldi 16 0xA5) [] 0x00 16 0xA5 0x00) = true := by decide

theorem test_lsl :
    (gives (.lsl 16) [(16, 0x01)] 0xFF 16 0x02 0xC0) = true := by decide

theorem test_lsr :
    (gives (.lsr 16) [(16, 0x02)] 0xFF 16 0x01 0xE0) = true := by decide

theorem test_rol :
    (gives (.rol 16) [(16, 0x81)] 0x01 16 0x03 0x19) = true := by decide

theorem test_ror :
    (gives (.ror 16) [(16, 0x81)] 0x01 16 0xC0 0x15) = true := by decide

theorem test_asr :
    (gives (.asr 16) [(16, 0x80)] 0x00 16 0xC0 0x0C) = true := by decide

theorem test_swap :
    (gives (.swap 0) [(0, 0x1F)] 0x00 0 0xF1 0x00) = true := by decide

theorem test_bst :
    (gives (.bst 3 7) [(3, 0x7F)] 0xFF 3 0x7F 0xBF) = true := by decide

theorem test_bld :
    (gives (.bld 4 3) [(4, 0xFF)] 0xBF 4 0xF7 0xBF) = true := by decide

theorem test_sec :
    (gives (.sec) [] 0x00 0 0x00 0x01) = true := by decide

theorem test_sez :
    (gives (.sez) [] 0x00 0 0x00 0x02) = true := by decide

theorem test_sen :
    (gives (.sen) [] 0x00 0 0x00 0x04) = true := by decide

theorem test_sev :
    (gives (.sev) [] 0x00 0 0x00 0x08) = true := by decide

theorem test_ses :
    (gives (.ses) [] 0x00 0 0x00 0x10) = true := by decide

theorem test_seh :
    (gives (.seh) [] 0x00 0 0x00 0x20) = true := by decide

theorem test_set :
    (gives (.set) [] 0x00 0 0x00 0x40) = true := by decide

theorem test_sei :
    (gives (.sei) [] 0x00 0 0x00 0x80) = true := by decide

theorem test_clc :
    (gives (.clc) [] 0xFF 0 0x00 0xFE) = true := by decide

theorem test_clz :
    (gives (.clz) [] 0xFF 0 0x00 0xFD) = true := by decide

theorem test_cln :
    (gives (.cln) [] 0xFF 0 0x00 0xFB) = true := by decide

theorem test_clv :
    (gives (.clv) [] 0xFF 0 0x00 0xF7) = true := by decide

theorem test_cls :
    (gives (.cls) [] 0xFF 0 0x00 0xEF) = true := by decide

theorem test_clh :
    (gives (.clh) [] 0xFF 0 0x00 0xDF) = true := by decide

theorem test_clt :
    (gives (.clt) [] 0xFF 0 0x00 0xBF) = true := by decide

theorem test_cli :
    (gives (.cli) [] 0xFF 0 0x00 0x7F) = true := by decide

theorem test_bset :
    (gives (.bset 6) [] 0x00 0 0x00 0x40) = true := by decide

theorem test_bclr :
    (gives (.bclr 4) [] 0xFF 0 0x00 0xEF) = true := by decide

/-- The core at a program counter with a pointer, RAM bytes and program words given. -/
def at' (s : State) (pc : PcWord) (ram : List (Nat × Byte)) (words : List (PcWord × Word)) : State :=
  { s with
    pc := pc
    ram := ram.foldl (fun m c => m.set ramErased c.1 c.2) s.ram
    flash := words.foldl (fun m c => storeProgWord m c.1 c.2) s.flash }

/-- The core at `pc` with SREG given. -/
def flagged (pc : PcWord) (sreg : Byte) : State := { cpu with pc := pc, sreg := sreg }

theorem test_rjmp : sees (exec (.rjmp (BitVec.ofInt 12 (-2))) cpu) (fun t => t.pc == 0xFFFF) = true := by
  decide

theorem test_ijmp : sees (exec .ijmp (core [(30, 0x34), (31, 0x02)] 0)) (fun t => t.pc == 0x0234) = true := by
  decide

theorem test_rcall : sees (exec (.rcall 16) { cpu with pc := 0x0123 }) (fun t =>
    t.pc == 0x0134 && t.sp == 0x025D && t.ramByte 0x025F == some 0x24 && t.ramByte 0x025E == some 0x01) = true := by
  decide

theorem test_icall : sees (exec .icall { core [(31, 0x03)] 0 with pc := 0x01FF }) (fun t =>
    t.pc == 0x0300 && t.sp == 0x025D && t.ramByte 0x025F == some 0x00 && t.ramByte 0x025E == some 0x02) = true := by
  decide

/-- A return address 0x0124 on the stack. -/
def called : State := at' { cpu with sp := 0x025D } 0 [(0x025E, 0x01), (0x025F, 0x24)] []

theorem test_ret : sees (exec .ret called) (fun t => t.pc == 0x0124 && t.sp == 0x025F && t.sreg == 0x00) = true := by
  decide

theorem test_reti : sees (exec .reti called) (fun t =>
    t.pc == 0x0124 && t.sp == 0x025F && t.sreg == 0x80 && t.irqInhibit) = true := by
  decide

theorem test_cpse_over_two_words : sees (exec (.cpse 1 2) (at' (core [(1, 5), (2, 5)] 0x3F) 0 []
    [(1, 0x9100), (2, 0x0100)])) (fun t => t.pc == 3 && t.sreg == 0x3F) = true := by decide

theorem test_cpse_over_illegal_word : faults (exec (.cpse 1 2) (at' (core [(1, 5), (2, 5)] 0) 0 [] [(1, 0x0001)]))
    (.illegalOpcode 1 0x0001) = true := by decide

theorem test_sbrc : sees (exec (.sbrc 3 7) (at' (core [(3, 0x7F)] 0) 0 [] [(1, 0)])) (fun t => t.pc == 2) = true ∧
    sees (exec (.sbrc 3 7) (core [(3, 0x80)] 0)) (fun t => t.pc == 1) = true := by decide

theorem test_sbrs : sees (exec (.sbrs 3 0) (at' (core [(3, 0x01)] 0) 0 [] [(1, 0x9210), (2, 0x0100)]))
    (fun t => t.pc == 3 && t.ramByte 0x0100 == none) = true := by decide

/-- The core with one plain I/O location written. -/
def withIo (a : IoAddr) (v : Byte) : State := { cpu with io := cpu.io.set a.val v }

theorem test_sbic : sees (exec (.sbic 0x10 2) (at' (withIo 0x10 0xFB) 0 [] [(1, 0)])) (fun t => t.pc == 2) = true ∧
    sees (exec (.sbic 0x10 2) (withIo 0x10 0x04)) (fun t => t.pc == 1) = true := by decide

theorem test_sbis : sees (exec (.sbis 0x1F 7) (at' (withIo 0x1F 0x80) 0 [] [(1, 0)])) (fun t => t.pc == 2) = true ∧
    sees (exec (.sbis 0x10 2) (withIo 0x10 0xFB)) (fun t => t.pc == 1) = true := by decide

theorem test_brbs : sees (exec (.brbs 1 (BitVec.ofInt 7 (-3))) (flagged 0x10 0x02)) (fun t => t.pc == 0x0E) = true ∧
    sees (exec (.brbs 1 (BitVec.ofInt 7 (-3))) (flagged 0x10 0xFD)) (fun t => t.pc == 0x11) = true := by
  decide

theorem test_brbc : sees (exec (.brbc 7 (BitVec.ofInt 7 (-64))) (flagged 0x100 0x7F)) (fun t => t.pc == 0xC1) = true := by
  decide

/-- The eighteen named branches with k = 2 at 0x0010: taken with the first SREG, not taken with the second. -/
theorem test_named_branches : [
    (Instr.breq 2, 0x02, 0xFD), (.brne 2, 0xFD, 0x02), (.brcs 2, 0x01, 0xFE), (.brcc 2, 0xFE, 0x01),
    (.brsh 2, 0xFE, 0x01), (.brlo 2, 0x01, 0xFE), (.brmi 2, 0x04, 0xFB), (.brpl 2, 0xFB, 0x04),
    (.brge 2, 0xEF, 0x10), (.brlt 2, 0x10, 0xEF), (.brhs 2, 0x20, 0xDF), (.brhc 2, 0xDF, 0x20),
    (.brts 2, 0x40, 0xBF), (.brtc 2, 0xBF, 0x40), (.brvs 2, 0x08, 0xF7), (.brvc 2, 0xF7, 0x08),
    (.brie 2, 0x80, 0x7F), (.brid 2, 0x7F, 0x80)].all (fun p =>
      sees (exec p.1 (flagged 0x10 p.2.1)) (fun t => t.pc == 0x13) &&
      sees (exec p.1 (flagged 0x10 p.2.2)) (fun t => t.pc == 0x11)) = true := by decide

theorem test_ldX : sees (exec (.ldX 5) (at' (core [(26, 0x00), (27, 0x01)] 0) 0 [(0x0100, 0x11)] []))
    (fun t => t.reg 5 == 0x11 && t.pointer .x == 0x0100 && t.pc == 1) = true := by decide

theorem test_ldXInc : sees (exec (.ldXInc 5) (at' (core [(26, 0xFF), (27, 0x00)] 0) 0 [(0x00FF, 0x11)] []))
    (fun t => t.reg 5 == 0x11 && t.pointer .x == 0x0100 && t.pc == 1) = true := by decide

theorem test_ldXDec : sees (exec (.ldXDec 5) (at' (core [(26, 0x00), (27, 0x01)] 0) 0 [(0x00FF, 0x11)] []))
    (fun t => t.reg 5 == 0x11 && t.pointer .x == 0x00FF && t.pc == 1) = true := by decide

theorem test_ldY : sees (exec (.ldY 5) (at' (core [(28, 0x00), (29, 0x01)] 0) 0 [(0x0100, 0x11)] []))
    (fun t => t.reg 5 == 0x11 && t.pointer .y == 0x0100 && t.pc == 1) = true := by decide

theorem test_ldYInc : sees (exec (.ldYInc 5) (at' (core [(28, 0xFF), (29, 0x00)] 0) 0 [(0x00FF, 0x11)] []))
    (fun t => t.reg 5 == 0x11 && t.pointer .y == 0x0100 && t.pc == 1) = true := by decide

theorem test_ldYDec : sees (exec (.ldYDec 5) (at' (core [(28, 0x00), (29, 0x01)] 0) 0 [(0x00FF, 0x11)] []))
    (fun t => t.reg 5 == 0x11 && t.pointer .y == 0x00FF && t.pc == 1) = true := by decide

theorem test_lddY : sees (exec (.lddY 5 63) (at' (core [(28, 0xC1), (29, 0x00)] 0) 0 [(0x0100, 0x11)] []))
    (fun t => t.reg 5 == 0x11 && t.pointer .y == 0x00C1 && t.pc == 1) = true := by decide

theorem test_ldZ : sees (exec (.ldZ 5) (at' (core [(30, 0x00), (31, 0x01)] 0) 0 [(0x0100, 0x11)] []))
    (fun t => t.reg 5 == 0x11 && t.pointer .z == 0x0100 && t.pc == 1) = true := by decide

theorem test_ldZInc : sees (exec (.ldZInc 5) (at' (core [(30, 0xFF), (31, 0x00)] 0) 0 [(0x00FF, 0x11)] []))
    (fun t => t.reg 5 == 0x11 && t.pointer .z == 0x0100 && t.pc == 1) = true := by decide

theorem test_ldZDec : sees (exec (.ldZDec 5) (at' (core [(30, 0x00), (31, 0x01)] 0) 0 [(0x00FF, 0x11)] []))
    (fun t => t.reg 5 == 0x11 && t.pointer .z == 0x00FF && t.pc == 1) = true := by decide

theorem test_lddZ : sees (exec (.lddZ 5 63) (at' (core [(30, 0xC1), (31, 0x00)] 0) 0 [(0x0100, 0x11)] []))
    (fun t => t.reg 5 == 0x11 && t.pointer .z == 0x00C1 && t.pc == 1) = true := by decide

theorem test_stX : sees (exec (.stX 5) (core [(26, 0x00), (27, 0x01), (5, 0xAA)] 0))
    (fun t => t.ramByte 0x0100 == some 0xAA && t.pointer .x == 0x0100 && t.pc == 1) = true := by decide

theorem test_stXInc : sees (exec (.stXInc 5) (core [(26, 0x00), (27, 0x01), (5, 0xAA)] 0))
    (fun t => t.ramByte 0x0100 == some 0xAA && t.pointer .x == 0x0101 && t.pc == 1) = true := by decide

theorem test_stXDec : sees (exec (.stXDec 5) (core [(26, 0x00), (27, 0x01), (5, 0xAA)] 0))
    (fun t => t.ramByte 0x00FF == some 0xAA && t.pointer .x == 0x00FF && t.pc == 1) = true := by decide

theorem test_stY : sees (exec (.stY 5) (core [(28, 0x00), (29, 0x01), (5, 0xAA)] 0))
    (fun t => t.ramByte 0x0100 == some 0xAA && t.pointer .y == 0x0100 && t.pc == 1) = true := by decide

theorem test_stYInc : sees (exec (.stYInc 5) (core [(28, 0x00), (29, 0x01), (5, 0xAA)] 0))
    (fun t => t.ramByte 0x0100 == some 0xAA && t.pointer .y == 0x0101 && t.pc == 1) = true := by decide

theorem test_stYDec : sees (exec (.stYDec 5) (core [(28, 0x00), (29, 0x01), (5, 0xAA)] 0))
    (fun t => t.ramByte 0x00FF == some 0xAA && t.pointer .y == 0x00FF && t.pc == 1) = true := by decide

theorem test_stdY : sees (exec (.stdY 63 5) (core [(28, 0xC1), (29, 0x00), (5, 0xAA)] 0))
    (fun t => t.ramByte 0x0100 == some 0xAA && t.pointer .y == 0x00C1 && t.pc == 1) = true := by decide

theorem test_stZ : sees (exec (.stZ 5) (core [(30, 0x00), (31, 0x01), (5, 0xAA)] 0))
    (fun t => t.ramByte 0x0100 == some 0xAA && t.pointer .z == 0x0100 && t.pc == 1) = true := by decide

theorem test_stZInc : sees (exec (.stZInc 5) (core [(30, 0x00), (31, 0x01), (5, 0xAA)] 0))
    (fun t => t.ramByte 0x0100 == some 0xAA && t.pointer .z == 0x0101 && t.pc == 1) = true := by decide

theorem test_stZDec : sees (exec (.stZDec 5) (core [(30, 0x00), (31, 0x01), (5, 0xAA)] 0))
    (fun t => t.ramByte 0x00FF == some 0xAA && t.pointer .z == 0x00FF && t.pc == 1) = true := by decide

theorem test_stdZ : sees (exec (.stdZ 63 5) (core [(30, 0xC1), (31, 0x00), (5, 0xAA)] 0))
    (fun t => t.ramByte 0x0100 == some 0xAA && t.pointer .z == 0x00C1 && t.pc == 1) = true := by decide

theorem test_lds_reads_sreg : sees (exec (.lds 16 0x005F) (core [] 0xA5)) (fun t => t.reg 16 == 0xA5 && t.pc == 2) = true := by
  decide

theorem test_lds_unmapped : faults (exec (.lds 16 0x0260) cpu) (.unmappedAccess 0x0260) = true := by decide

theorem test_sts : sees (exec (.sts 0x025F 16) (core [(16, 0x01)] 0)) (fun t => t.ramByte 0x025F == some 0x01 && t.pc == 2) =
    true := by decide

theorem test_own_pointer_forms : faults (exec (.ldXInc 26) (core [(27, 0x01)] 0)) (.undefinedForm 0 (some 0x91AD)) = true ∧
    faults (exec (.ldXInc 5) (core [(26, 0x1A)] 0)) (.undefinedForm 0 (some 0x905D)) = true := by decide

theorem test_lpm : sees (exec .lpm (at' (core [(30, 0x03)] 0) 0 [] [(1, 0xBEEF)])) (fun t => t.reg 0 == 0xBE) = true ∧
    faults (exec .lpm (core [(31, 0x20)] 0)) (.fetchOutOfRange 0x1000) = true := by decide

theorem test_in : sees (exec (.inp 16 0x3E) cpu) (fun t => t.reg 16 == 0x02) = true ∧
    sees (exec (.inp 16 0x18) (withIo 0x18 0x3C)) (fun t => t.reg 16 == 0x3C) = true := by decide

theorem test_out : sees (exec (.out 0x3D 16) cpu) (fun t => t.sp == 0x0200) = true ∧
    sees (exec (.out 0x18 16) (core [(16, 0x5A)] 0)) (fun t => t.io[0x18] == 0x5A) = true := by decide

theorem test_push : sees (exec (.push 16) (core [(16, 0x77)] 0)) (fun t => t.sp == 0x025E && t.ramByte 0x025F == some 0x77) =
    true := by decide

theorem test_push_onto_sp : faults (exec (.push 16) { cpu with sp := 0x005D }) (.undefinedForm 0 (some 0x930F)) = true := by
  decide

theorem test_pop : sees (exec (.pop 17) { core [(0, 0x42)] 0 with sp := 0xFFFF }) (fun t => t.reg 17 == 0x42 && t.sp == 0) =
    true := by decide

theorem test_pop_unmapped : faults (exec (.pop 17) cpu) (.unmappedAccess 0x0260) = true := by decide

theorem test_sbi : sees (exec (.sbi 0x18 5) (withIo 0x18 0x01)) (fun t => t.io[0x18] == 0x21) = true := by decide

theorem test_cbi : sees (exec (.cbi 0x18 0) (withIo 0x18 0x21)) (fun t => t.io[0x18] == 0x20) = true := by decide

/-- The core under a configuration changed from REFCFG. -/
def under (c : Config) : State := { cpu with cfg := c }

theorem test_break : refuses (exec .brk cpu) (.refused 0 "BREAK") = true ∧
    sees (exec .brk (under { Config.refcfg with breakMode := .nop })) (fun t => t.pc == 1 && !t.stopped) = true ∧
    sees (exec .brk (under { Config.refcfg with breakMode := .stop })) (fun t => t.pc == 1 && t.stopped) = true := by
  decide

theorem test_nop : sees (exec .nop (flagged 5 0xFF)) (fun t => t.pc == 6 && t.sreg == 0xFF) = true := by decide

theorem test_sleep : sees (exec .sleep cpu) (fun t => t.pc == 1 && t.sleeping) = true ∧
    sees (exec .sleep (under { Config.refcfg with sleepMode := .nop })) (fun t => t.pc == 1 && !t.sleeping) = true := by
  decide

theorem test_wdr : sees (exec .wdr cpu) (fun t => t.pc == 1 && t.events == [.wdr]) = true := by decide

/-- The step fetches what `withFetchWord` stores, from reset on. -/
theorem test_step_runs_stored_word :
    sees (step (State.reset.withFetchWord 16 0xEA05)) (fun t => t.reg 16 == 0xA5 && t.pc == 1) = true := by
  decide

/-- R291: with no program placed the first word is 0xFFFF, which is illegal. -/
theorem test_step_without_program : faults (step State.reset) (.illegalOpcode 0 0xFFFF) = true := by decide

/-- R308: the lowest pending vector is taken and the return address pushed. -/
theorem test_interrupt_entry :
    sees (step { under { Config.refcfg with numVectors := 4, vectorStride := 2 } with
      pc := 0x0123, sreg := 0x81, inputs := [{ reset := false, requests := [3, 2] }] })
      (fun t => t.pc == 4 && t.sreg == 0x01 && t.sp == 0x025D && t.ramByte 0x025F == some 0x23 &&
        t.ramByte 0x025E == some 0x01 && t.events == [.irqAccepted 2]) = true := by decide

/-! ## Witnesses: a state and operands that meet the hypotheses of each statement that has some -/

/-- The invariant, from its decidable parts. -/
theorem inv_of {s : State} (h : s.cfg.WF ∧ s.pc.toNat < 2 ^ s.cfg.pcBits ∧
    (s.cfg.spWidth = .bits8 → s.sp.toNat < 256) ∧ Memory.WF ramErased s.ram ∧
    (∀ c ∈ s.ram, s.cfg.ramStart ≤ c.1 ∧ c.1 ≤ s.cfg.ramEnd) ∧ Memory.WF flashErased s.flash ∧
    (s.sleeping = true → s.cfg.sleepMode = .hold) ∧ (s.stopped = true → s.cfg.breakMode = .stop)) : s.Inv :=
  ⟨h.1, h.2.1, h.2.2.1, h.2.2.2.1, h.2.2.2.2.1, h.2.2.2.2.2.1, h.2.2.2.2.2.2.1, h.2.2.2.2.2.2.2⟩

/-- A part with a 22-bit program counter, three-byte return addresses and interrupt vectors. -/
def bigCfg : Config :=
  { Config.refcfg with pcBits := 22, flashWords := 0x400000, numVectors := 4, vectorStride := 2 }

/-- A part with an 8-bit stack pointer. -/
def smallCfg : Config := { Config.refcfg with pcBits := 10, flashWords := 1024, spWidth := .bits8, ramEnd := 0x00DF }

/-- A part whose I/O device and extra data addresses are the platform's; the device raises on the access numbered `n`,
if any. -/
def deviceCfg (n : Option Nat) : Config :=
  { Config.refcfg with ioDevice := .platform n, dataExtra := [⟨0x0260, 0x027F⟩] }

/-- The same with a device that never raises. -/
def platformCfg : Config := deviceCfg none

/-- R232, R233, R258, R259, R162: a device that raises on its first access. -/
theorem test_device_raises_on_its_first_access :
    [Instr.inp 5 0x10, .out 0x10 5, .sbi 0x10 2, .cbi 0x10 2, .sbic 0x10 2, .sbis 0x10 2, .lds 5 0x0030].all (fun i =>
      match exec i (under (deviceCfg (some 0))) with
      | .fault (.deviceRaised e) => e.isDeviceAccess
      | _ => false) = true := by decide

/-- R232, R233: a device that raises on its second access takes the first; SREG is none of its locations. -/
theorem test_device_raises_on_its_second_access :
    sees (exec (.out 0x10 5) (under (deviceCfg (some 1)))) (fun t => t.events == [.ioWrite 0x10 0] &&
      (match exec (.out 0x11 5) t with
        | .fault f => f == .deviceRaised (.ioWrite 0x11 0)
        | _ => false) &&
      sees (exec (.inp 5 0x3F) t) (fun u => u.events == t.events)) = true := by decide

theorem cpu_inv : cpu.Inv := inv_of (by decide)

theorem big_inv : (under bigCfg).Inv := inv_of (by decide)

theorem witness_DecodeOfEncodeIsBase :
    (Instr.adiw 30 63).wellFormed = true ∧ (Instr.sbr 16 0xFF).wellFormed = true := by decide

theorem witness_EncodeOfDecodeIsWords :
    (decode [0x00, 0x93, 0x00, 0x01, 0x55] matches .ok (.sts 0x0100 16, [0x55])) = true := by decide

theorem witness_IllegalFirstWordsArePatterns :
    isLegalWord 0x0000 = true ∧ isLegalWord 0x0001 = false ∧ isLegalWord 0x9409 = true ∧ isLegalWord 0x9419 = false ∧
      isLegalWord 0xFFF7 = true ∧ isLegalWord 0xFFFF = false := by decide

theorem witness_FirstWordTellsTheLength :
    (Instr.lds 31 0xFFFF).wellFormed = true ∧ (Instr.nop).wellFormed = true := by decide

/-- A program at the last words of program memory. -/
def atEnd (pc : PcWord) (words : List (PcWord × Word)) : State := at' cpu pc [] words

theorem witness_StepRunsDecodedInstruction_one_word_at_the_end :
    (atEnd 0x0FFF [(0x0FFF, 0x0C12)]).RunsInstruction ∧ (Instr.add 1 2).wellFormed = true ∧
      (atEnd 0x0FFF [(0x0FFF, 0x0C12)]).pc.toNat < 4096 ∧ ((encode (.add 1 2)).length = 2 → False) ∧
      ∃ rest, decode (atEnd 0x0FFF [(0x0FFF, 0x0C12)]).codeBytes = .ok (.add 1 2, rest) :=
  ⟨⟨rfl, rfl, rfl, by decide⟩, by decide, by decide, by decide, [0xFF, 0xFF], rfl⟩

theorem witness_StepRunsDecodedInstruction_two_words :
    (atEnd 0x0FFE [(0x0FFE, 0x9100), (0x0FFF, 0x0100)]).RunsInstruction ∧ (Instr.lds 16 0x0100).wellFormed = true ∧
      (State.pcAfter (atEnd 0x0FFE [(0x0FFE, 0x9100), (0x0FFF, 0x0100)]) 1).toNat < 4096 ∧
      decode (atEnd 0x0FFE [(0x0FFE, 0x9100), (0x0FFF, 0x0100)]).codeBytes = .ok (.lds 16 0x0100, []) :=
  ⟨⟨rfl, rfl, rfl, by decide⟩, by decide, by decide, rfl⟩

theorem witness_StoredInstructionIsRun :
    cpu.Inv ∧ (Instr.sts 0xFFFF 31).wellFormed = true ∧ cpu.pc.toNat < cpu.cfg.flashWords ∧
      (cpu.pcAfter 1).toNat < cpu.cfg.flashWords := ⟨cpu_inv, by decide, by decide, by decide⟩

/-- The core about to run SLEEP; the witness of a step that answers a next state. -/
def aboutToSleep : State := atEnd 0 [(0, 0x9588)]

theorem witness_StepKeepsTheInvariant : aboutToSleep.Inv ∧ ∃ t, step aboutToSleep = .next t :=
  ⟨inv_of (by decide), _, rfl⟩

theorem witness_StepKeepsProgramMemory : ∃ t, step aboutToSleep = .next t := ⟨_, rfl⟩

theorem witness_ResetEventLeavesResetValues :
    (nextInput { under { Config.refcfg with spReset := some 0x0400 } with
      inputs := [{ reset := true, requests := [] }] }).1.reset = true := rfl

/-- R331: with an 8-bit SP the given `SP_RESET` is in SP. -/
theorem test_reset_event_with_an_eight_bit_sp :
    sees (step { under { smallCfg with spReset := some 0x00DF } with inputs := [{ reset := true, requests := [] }] })
      (fun t => t.sp == 0x00DF && t.cfg.spWidth == .bits8) = true := by decide

/-- A core with interrupts enabled and requests 3 and 1 pending, and SP given. -/
def interruptedAt (c : Config) (sp : Word) : State :=
  { under c with sp := sp, sreg := 0x80, inputs := [{ reset := false, requests := [3, 1] }] }

/-- The same with the stack at the top of RAM. -/
def interrupted (c : Config) : State := interruptedAt c 0x025F

theorem witness_InterruptEntrySavesAndVectors_three_bytes :
    (interrupted bigCfg).Inv ∧ (nextInput (interrupted bigCfg)).1.reset = false ∧
      (interrupted bigCfg).stopped = false ∧
      interruptTaken (nextInput (interrupted bigCfg)).1.requests (interrupted bigCfg) = some 1 ∧
      (interrupted bigCfg).PushRoom (pcBytes (interrupted bigCfg).cfg) :=
  ⟨inv_of (by decide), rfl, rfl, by decide,
    (by decide : ∀ k < 3, route bigCfg ((interrupted bigCfg).pushSlot k) = .ram)⟩

/-- A stack over the registers R0 to R2. -/
theorem witness_InterruptEntrySavesAndVectors_in_the_registers :
    (interruptedAt bigCfg 0x0002).Inv ∧ (nextInput (interruptedAt bigCfg 2)).1.reset = false ∧
      (interruptedAt bigCfg 2).stopped = false ∧
      interruptTaken (nextInput (interruptedAt bigCfg 2)).1.requests (interruptedAt bigCfg 2) = some 1 ∧
      (interruptedAt bigCfg 2).PushesLand (pcBytes (interruptedAt bigCfg 2).cfg) (interruptedAt bigCfg 2).pc :=
  ⟨inv_of (by decide), rfl, rfl, by decide,
    (by decide : ∀ k < 3, isSpLocation bigCfg ((interruptedAt bigCfg 2).pushSlot k) = false ∧
      Completes bigCfg ((interruptedAt bigCfg 2).pushEvents 0 k) ((interruptedAt bigCfg 2).pushSlot k))⟩

/-- The second pushed byte falls on SP's high location; in the other two states the second, and the first, falls on no
address of the data map. -/
theorem witness_InterruptEntrySavesAndVectors_stops :
    (interruptedAt bigCfg 0x005F).Inv ∧
      interruptTaken (nextInput (interruptedAt bigCfg 0x005F)).1.requests (interruptedAt bigCfg 0x005F) = some 1 ∧
      isSpLocation bigCfg ((interruptedAt bigCfg 0x005F).pushSlot 1) = true ∧
      (∀ k < 3, isSpLocation bigCfg ((interruptedAt bigCfg 0).pushSlot k) = false) ∧
      Completes bigCfg ((interruptedAt bigCfg 0).pushEvents 0 0) ((interruptedAt bigCfg 0).pushSlot 0) ∧
      route bigCfg ((interruptedAt bigCfg 0).pushSlot 1) = .unmapped ∧
      route bigCfg ((interruptedAt bigCfg 0x0260).pushSlot 0) = .unmapped := ⟨inv_of (by decide), by decide⟩

/-- A part with interrupts whose device raises on its second access. -/
def raisingCfg : Config := { bigCfg with ioDevice := .platform (some 1) }

/-- The stack lies over the device; its second pushed byte raises. -/
theorem witness_InterruptEntrySavesAndVectors_device_raises :
    (interruptedAt raisingCfg 0x0041).Inv ∧
      interruptTaken (nextInput (interruptedAt raisingCfg 0x0041)).1.requests (interruptedAt raisingCfg 0x0041) = some 1 ∧
      (∀ k < 3, isSpLocation raisingCfg ((interruptedAt raisingCfg 0x0041).pushSlot k) = false) ∧
      Completes raisingCfg ((interruptedAt raisingCfg 0x0041).pushEvents 0 0)
        ((interruptedAt raisingCfg 0x0041).pushSlot 0) ∧
      route raisingCfg ((interruptedAt raisingCfg 0x0041).pushSlot 1) = .io 32 ∧
      deviceRaises raisingCfg ((interruptedAt raisingCfg 0x0041).pushEvents 0 1) 32 = true :=
  ⟨inv_of (by decide), by decide⟩

/-- R308 over the registers: the least significant byte is at the higher address. -/
theorem test_interrupt_entry_pushes_over_registers :
    sees (step { interruptedAt bigCfg 0x0002 with pc := 0x012345 }) (fun t =>
      t.reg 2 == 0x45 && t.reg 1 == 0x23 && t.reg 0 == 0x01 && t.sp == 0xFFFF && t.pc == 2 && t.sreg == 0) = true := by
  decide

theorem witness_LowestPendingRequestIsTaken :
    interruptTaken [0, 4, 3, 1] (interrupted bigCfg) = some 1 ∧ interruptTaken [0, 4] (interrupted bigCfg) = none ∧
      interruptTaken [3] { interrupted bigCfg with irqInhibit := true } = none := by decide

theorem witness_InstructionAfterSeiOrRetiRunsFirst :
    (∃ t, exec .sei cpu = .next t) ∧ (∃ t, exec (.bset 7) cpu = .next t) ∧ (∃ t, exec .reti called = .next t) ∧
      called.stopped = false ∧ called.sleeping = false := ⟨⟨_, rfl⟩, ⟨_, rfl⟩, ⟨_, rfl⟩, rfl, rfl⟩

theorem witness_OnlySleepAndBreakHoldTheCore_falls_asleep :
    sees (step aboutToSleep) (fun t => !aboutToSleep.sleeping && t.sleeping) = true := by decide

theorem witness_OnlySleepAndBreakHoldTheCore_wakes :
    sees (step { interrupted bigCfg with sleeping := true }) (fun t => !t.sleeping) = true ∧
      sees (step { cpu with sleeping := true, inputs := [{ reset := true, requests := [] }] })
        (fun t => !t.sleeping) = true := by decide

theorem witness_OnlySleepAndBreakHoldTheCore_stops :
    sees (step (at' (under { Config.refcfg with breakMode := .stop }) 0 [] [(0, 0x9598)])) (fun t => t.stopped) = true ∧
      sees (step { cpu with stopped := true, inputs := [{ reset := true, requests := [] }] })
        (fun t => !t.stopped) = true := by decide

theorem witness_StoppedAndSleepingStepsChangeNothing :
    (nextInput { cpu with stopped := true }).1.reset = false ∧
      ({ cpu with sleeping := true } : State).stopped = false ∧
      interruptTaken (nextInput { cpu with sleeping := true }).1.requests { cpu with sleeping := true } = none :=
  ⟨rfl, rfl, by decide⟩

theorem witness_FetchFaultsStopTheStep_beyond_the_end :
    (atEnd 0x1000 []).RunsInstruction ∧ (atEnd 0x1000 []).cfg.flashWords ≤ (atEnd 0x1000 []).pc.toNat :=
  ⟨⟨rfl, rfl, rfl, by decide⟩, by decide⟩

theorem witness_FetchFaultsStopTheStep_illegal_word :
    cpu.RunsInstruction ∧ progWord cpu cpu.pc = .ok 0xFFFF ∧ isLegalWord 0xFFFF = false :=
  ⟨⟨rfl, rfl, rfl, by decide⟩, rfl, by decide⟩

theorem witness_FetchFaultsStopTheStep_second_word :
    (atEnd 0x0FFF [(0x0FFF, 0x9300)]).RunsInstruction ∧
      progWord (atEnd 0x0FFF [(0x0FFF, 0x9300)]) 0x0FFF = .ok 0x9300 ∧ (0x9300 : Word) &&& 0xFC0F = 0x9000 ∧
      4096 ≤ (State.pcAfter (atEnd 0x0FFF [(0x0FFF, 0x9300)]) 1).toNat :=
  ⟨⟨rfl, rfl, rfl, by decide⟩, rfl, by decide, by decide⟩

theorem witness_DataMapRouting :
    [(0x0000, Place.reg 0), (0x001F, .reg 31), (0x0020, .io 0), (0x005F, .io 63), (0x0060, .ram), (0x025F, .ram),
      (0x0260, .extra), (0x027F, .extra), (0x0280, .unmapped), (0xFFFF, .unmapped)].all
      (fun p => route platformCfg p.1 == p.2) = true ∧
    route { Config.refcfg with regsInDataSpace := false } 0x001F = .unmapped ∧ platformCfg.WF := by decide

theorem witness_RamAndRegistersReadBack :
    [0x0000, 0x001F, 0x0060, 0x025F].all (fun a => match memWrite a 0x5A cpu with | .ok _ => true | .error _ => false) =
      true ∧
    route cpu.cfg 0x0000 = .reg 0 ∧ route cpu.cfg 0x001F = .reg 31 ∧ route cpu.cfg 0x0060 = .ram ∧
      route cpu.cfg 0x025F = .ram := by decide

theorem witness_SregAndSpThroughTheDataSpace :
    Config.refcfg.WF ∧ smallCfg.WF ∧ smallCfg.spWidth = .bits8 ∧
      (0x005F : Word).toNat = Config.refcfg.ioDataBase + Config.refcfg.ioSreg ∧
      (0x005D : Word).toNat = Config.refcfg.ioDataBase + Config.refcfg.ioSpl ∧
      (0x005E : Word).toNat = Config.refcfg.ioDataBase + Config.refcfg.ioSph ∧
      (0x005E : Word).toNat = smallCfg.ioDataBase + smallCfg.ioSph := by decide

/-- Two bytes at the two ends of RAM hold a return address. -/
theorem cpu_room : cpu.PushRoom (pcBytes cpu.cfg) := (by decide : ∀ k < 2, route cpu.cfg (cpu.pushSlot k) = .ram)

theorem low_room : ({ cpu with sp := 0x0061 } : State).PushRoom (pcBytes cpu.cfg) :=
  (by decide : ∀ k < 2, route cpu.cfg (({ cpu with sp := 0x0061 } : State).pushSlot k) = .ram)

theorem big_room : (under bigCfg).PushRoom (pcBytes (under bigCfg).cfg) :=
  (by decide : ∀ k < 3, route bigCfg ((under bigCfg).pushSlot k) = .ram)

theorem witness_PopPcReturnsThePushedAddress :
    (under bigCfg).Inv ∧ (0x3FFFFF : PcWord).toNat < 2 ^ (under bigCfg).cfg.pcBits ∧
      (under bigCfg).PushRoom (pcBytes (under bigCfg).cfg) := ⟨big_inv, by decide, big_room⟩

theorem witness_WordArithmeticWritesPairAndFlags : isPairReg 24 = true ∧ isPairReg 30 = true := by decide

theorem witness_MultiByteChainsComputeTheWholeValue : (0 : Reg) ≠ nextReg 2 ∧ (30 : Reg) ≠ nextReg 30 := by decide

theorem witness_JumpsGoToTheirTarget : Config.refcfg.pcBits ≤ 22 ∧ bigCfg.pcBits ≤ 22 := by decide

theorem witness_BranchOnAStatusBit :
    bigCfg.pcBits ≤ 22 ∧ (flagged 0 0x80).sreg.getLsbD 7 = true ∧ (flagged 0 0x7F).sreg.getLsbD 7 = false := by decide

theorem witness_NamedBranchesTestTheirFlag :
    bigCfg.pcBits ≤ 22 ∧ (flagged 0 0x01).flag .c = true ∧ (flagged 0 0xFE).flag .c = false := by decide

theorem witness_SkipsPassTheNextInstruction_one_word :
    decide (cpu.reg 1 = cpu.reg 2) = true ∧ progWord (atEnd 0 [(1, 0x0000)]) (cpu.pcAfter 1) = .ok 0x0000 ∧
      isLegalWord 0x0000 = true := ⟨by decide, rfl, by decide⟩

theorem witness_SkipsPassTheNextInstruction_two_words :
    progWord (atEnd 0 [(1, 0x9000)]) (cpu.pcAfter 1) = .ok 0x9000 ∧ isLegalWord 0x9000 = true :=
  ⟨rfl, by decide⟩

theorem witness_SkipsPassTheNextInstruction_stops :
    progWord cpu (cpu.pcAfter 1) = .ok 0xFFFF ∧ isLegalWord 0xFFFF = false ∧
      (atEnd 0x0FFF []).cfg.flashWords ≤ ((atEnd 0x0FFF []).pcAfter 1).toNat := ⟨rfl, by decide, by decide⟩

theorem witness_SkipsPassTheNextInstruction_device :
    (!deviceRaises platformCfg [] (ioOfLow 31)) = true ∧ (!deviceRaises cpu.cfg [] (ioOfLow 31)) = true ∧
      deviceRaises (deviceCfg (some 0)) [] (ioOfLow 31) = true := by decide

theorem witness_SkipsPassTheNextInstruction_not_taken :
    (!((core [(3, 0x80)] 0).reg 3).getLsbD 7) = false ∧ ((core [(3, 0x7F)] 0).reg 3).getLsbD 7 = false ∧
      (ioAnswer (ioOfLow 31) (withIo 31 0x80)).1.getLsbD 7 = true ∧ decide ((core [(3, 1)] 0).reg 3 = cpu.reg 2) = false := by
  decide

theorem witness_CallsPushTheReturnAddress :
    cpu.Inv ∧ cpu.PushRoom (pcBytes cpu.cfg) ∧ (under bigCfg).Inv ∧
      (under bigCfg).PushRoom (pcBytes (under bigCfg).cfg) ∧
      ({ cpu with sp := 0x0061 } : State).PushRoom (pcBytes cpu.cfg) :=
  ⟨cpu_inv, cpu_room, big_inv, big_room, low_room⟩

/-- The core with SP elsewhere. -/
def stackAt (sp : Word) : State := { cpu with sp := sp }

theorem witness_CallsOverAnyStack_completes_in_the_registers :
    (stackAt 0x0001).Inv ∧ (stackAt 1).PushesLand (pcBytes (stackAt 1).cfg) ((stackAt 1).pcAfter 1) :=
  ⟨inv_of (by decide), (by decide : ∀ k < 2, isSpLocation Config.refcfg ((stackAt 1).pushSlot k) = false ∧
    Completes Config.refcfg ((stackAt 1).pushEvents ((stackAt 1).pcAfter 1) k) ((stackAt 1).pushSlot k))⟩

/-- The core under a configuration with SP given. -/
def stackUnder (c : Config) (sp : Word) : State := { under c with sp := sp }

/-- A stack over the platform's own addresses: two of `DATA_EXTRA`, and two of the device. -/
theorem witness_CallsOverAnyStack_completes_over_the_platform :
    (stackUnder platformCfg 0x0261).Inv ∧
      (stackUnder platformCfg 0x0261).PushesLand (pcBytes platformCfg) 1 ∧ route platformCfg 0x0261 = .extra ∧
      (stackUnder platformCfg 0x0041).PushesLand (pcBytes platformCfg) 1 ∧ route platformCfg 0x0040 = .io 32 :=
  ⟨inv_of (by decide),
    (by decide : ∀ k < 2, isSpLocation platformCfg ((stackUnder platformCfg 0x0261).pushSlot k) = false ∧
      Completes platformCfg ((stackUnder platformCfg 0x0261).pushEvents 1 k) ((stackUnder platformCfg 0x0261).pushSlot k)),
    by decide,
    (by decide : ∀ k < 2, isSpLocation platformCfg ((stackUnder platformCfg 0x0041).pushSlot k) = false ∧
      Completes platformCfg ((stackUnder platformCfg 0x0041).pushEvents 1 k) ((stackUnder platformCfg 0x0041).pushSlot k)),
    by decide⟩

/-- The second pushed byte raises: the device has taken the first. -/
theorem witness_CallsOverAnyStack_device_raises :
    (stackUnder (deviceCfg (some 1)) 0x0041).Inv ∧
      Completes (deviceCfg (some 1)) ((stackUnder (deviceCfg (some 1)) 0x0041).pushEvents 1 0) 0x0041 ∧
      deviceRaises (deviceCfg (some 1)) ((stackUnder (deviceCfg (some 1)) 0x0041).pushEvents 1 1) 32 = true :=
  ⟨inv_of (by decide), by decide⟩

/-- R152 over the registers: the return address lies in R1 and R0. -/
theorem test_rcall_pushes_over_registers :
    sees (exec (.rcall 16) { stackAt 0x0001 with pc := 0x0123 }) (fun t =>
      t.reg 1 == 0x24 && t.reg 0 == 0x01 && t.sp == 0xFFFF && t.pc == 0x0134) = true := by decide

theorem witness_CallsOverAnyStack_hits_sp :
    (stackAt 0x005F).Inv ∧ isSpLocation (stackAt 0x005F).cfg ((stackAt 0x005F).pushSlot 1) = true ∧
      isSpLocation (stackAt 0x005D).cfg ((stackAt 0x005D).pushSlot 0) = true := ⟨inv_of (by decide), by decide⟩

theorem witness_CallsOverAnyStack_unmapped :
    (∀ j < 2, isSpLocation (stackAt 0).cfg ((stackAt 0).pushSlot j) = false) ∧
      Completes Config.refcfg ((stackAt 0).pushEvents 1 0) ((stackAt 0).pushSlot 0) ∧
      route (stackAt 0).cfg ((stackAt 0).pushSlot 1) = .unmapped ∧
      (∀ j < 2, isSpLocation (stackAt 0x0260).cfg ((stackAt 0x0260).pushSlot j) = false) ∧
      route (stackAt 0x0260).cfg ((stackAt 0x0260).pushSlot 0) = .unmapped := by decide

theorem witness_ReturnsTakeTheAddressFromTheStack : called.cfg.pcBits ≤ 22 ∧ called.ReturnOnStack 0x0124 :=
  ⟨by decide, by decide,
    (by decide : ∀ k < 2, route called.cfg (called.popSlot k) = .ram ∧
      called.ramByte (called.popSlot k).toNat = some (BitVec.ofNat 8 (0x0124 / 256 ^ (2 - 1 - k))))⟩

/-- A three-byte return address with bits above the program counter's. -/
def calledBig : State :=
  at' { under bigCfg with sp := 0x025C } 0 [(0x025D, 0xC1), (0x025E, 0x23), (0x025F, 0x45)] []

theorem witness_ReturnsTakeTheAddressFromTheStack_three_bytes : calledBig.ReturnOnStack 0xC12345 :=
  ⟨by decide,
    (by decide : ∀ k < 3, route calledBig.cfg (calledBig.popSlot k) = .ram ∧
      calledBig.ramByte (calledBig.popSlot k).toNat = some (BitVec.ofNat 8 (0xC12345 / 256 ^ (3 - 1 - k))))⟩

theorem witness_ReturnsOverAnyStack :
    (∀ j < pcBytes Config.refcfg, Completes Config.refcfg ((stackAt 0xFFFF).popEvents j) ((stackAt 0xFFFF).popSlot j)) ∧
      route (stackAt 0x025F).cfg ((stackAt 0x025F).popSlot 0) = .unmapped ∧
      (∀ j < 1, Completes Config.refcfg ((stackAt 0x025E).popEvents j) ((stackAt 0x025E).popSlot j)) ∧
      route (stackAt 0x025E).cfg ((stackAt 0x025E).popSlot 1) = .unmapped := by decide

/-- The second popped byte raises: the device has answered the first. -/
theorem witness_ReturnsOverAnyStack_device_raises :
    Completes (deviceCfg (some 1)) ((stackUnder (deviceCfg (some 1)) 0x003F).popEvents 0) 0x0040 ∧
      (stackUnder (deviceCfg (some 1)) 0x003F).popSlot 1 = 0x0041 ∧ route (deviceCfg (some 1)) 0x0041 = .io 33 ∧
      deviceRaises (deviceCfg (some 1)) ((stackUnder (deviceCfg (some 1)) 0x003F).popEvents 1) 33 = true := by decide

/-- R155 over the registers: the return address is popped from R0 and R1. -/
theorem test_reti_pops_over_registers :
    sees (exec .reti { stackAt 0xFFFF with regs := (core [(0, 0x01), (1, 0x24)] 0).regs }) (fun t =>
      t.pc == 0x0124 && t.sp == 0x0001 && t.sreg == 0x80 && t.irqInhibit) = true := by decide

theorem witness_CallThenReturnComesBack :
    (under bigCfg).Inv ∧ (under bigCfg).PushRoom (pcBytes (under bigCfg).cfg) := ⟨big_inv, big_room⟩

theorem witness_InterruptThenRetiComesBack :
    (interrupted bigCfg).Inv ∧ (interrupted bigCfg).flag .i = true ∧
      (interrupted bigCfg).PushRoom (pcBytes (interrupted bigCfg).cfg) :=
  ⟨inv_of (by decide), by decide, (by decide : ∀ k < 3, route bigCfg ((interrupted bigCfg).pushSlot k) = .ram)⟩

/-- An address on which the device raises, for the loads, stores, PUSH and POP. -/
theorem witness_device_raises_at_a_data_address :
    route (deviceCfg (some 0)) 0x0030 = .io 16 ∧ deviceRaises (deviceCfg (some 0)) [] 16 = true ∧
      isSpLocation (deviceCfg (some 0)) 0x0030 = false ∧ (stackUnder (deviceCfg (some 0)) 0x002F).popSlot 0 = 0x0030 ∧
      ¬Completes (deviceCfg (some 0)) [] 0x0030 ∧ Completes (deviceCfg (some 1)) [] 0x0030 := by decide

theorem witness_PlainLoadsReadTheDataSpace :
    Completes cpu.cfg cpu.events 0x025F ∧ route cpu.cfg 0x0260 = .unmapped ∧
      Completes cpu.cfg [] ((core [(26, 0x5F), (27, 0x02)] 0).pair 26) ∧
      route cpu.cfg ((core [(28, 0x60), (29, 0x02)] 0).pair 28) = .unmapped := by decide

theorem witness_PlainStoresWriteTheDataSpace :
    Completes cpu.cfg cpu.events 0x0000 ∧ route cpu.cfg 0xFFFF = .unmapped ∧
      Completes cpu.cfg [] ((core [(30, 0x5F), (31, 0x00)] 0).pair 30) ∧
      route cpu.cfg ((core [(28, 0x60), (29, 0x02)] 0).pair 28) = .unmapped := by decide

/-- The core with all three pointers at one address. -/
def pointing (low high : Byte) : State :=
  core [(26, low), (27, high), (28, low), (29, high), (30, low), (31, high)] 0

/-- No pointer register is named, and the address is not one of the pointer's own registers. -/
theorem notUndefined (s : State) (p : Pointer) (r : Reg) (a : Word) (h : isUndefinedForm s.cfg p r a = false) :
    ¬MovingFormUndefined p r a s := by
  rintro (h1 | ⟨h1, h2⟩)
  · simp only [Pointer.regs, List.mem_cons, List.not_mem_nil, or_false] at h1
    rcases h1 with rfl | rfl <;> simp [isUndefinedForm, Pointer.holds] at h
  · rcases h2 with h2 | h2 <;> simp [isUndefinedForm, h1, h2] at h

theorem witness_MovingLoadsReadAndMoveThePointer :
    (∀ p : Pointer, ¬MovingFormUndefined p 5 (PointerMove.postIncrement.address ((pointing 0x5F 0x02).pointer p))
      (pointing 0x5F 0x02)) ∧
    (∀ p : Pointer, ¬MovingFormUndefined p 5 (PointerMove.preDecrement.address ((pointing 0x00 0x00).pointer p))
      (pointing 0x00 0x00)) ∧
    Completes cpu.cfg [] 0x025F ∧ route cpu.cfg 0xFFFF = .unmapped :=
  ⟨fun p => notUndefined _ _ _ _ (by cases p <;> decide), fun p => notUndefined _ _ _ _ (by cases p <;> decide),
    by decide, by decide⟩

theorem witness_MovingStoresWriteAndMoveThePointer :
    (∀ p : Pointer, ¬MovingFormUndefined p 31 (PointerMove.preDecrement.address ((pointing 0x00 0x01).pointer .x))
      (pointing 0x00 0x01) ∨ p ≠ .x) ∧
    ¬MovingFormUndefined .z 28 (PointerMove.postIncrement.address ((pointing 0x60 0x02).pointer .z)) (pointing 0x60 0x02) ∧
    Completes cpu.cfg [] 0x00FF ∧ route cpu.cfg 0x0260 = .unmapped := by
  refine ⟨fun p => ?_, notUndefined _ _ _ _ (by decide), by decide, by decide⟩
  cases p
  · exact .inl (notUndefined _ _ _ _ (by decide))
  · exact .inr (by decide)
  · exact .inr (by decide)

/-- Both cases of R204 at their ends: the two registers of X, and their two data addresses; and the values beside them. -/
theorem witness_UndefinedFormsAreTheOwnPointerOnes :
    MovingFormUndefined .x 26 0x0100 cpu ∧ MovingFormUndefined .x 27 0x0100 cpu ∧
      MovingFormUndefined .x 5 0x001A cpu ∧ MovingFormUndefined .x 5 0x001B cpu ∧
      ¬MovingFormUndefined .x 25 0x0019 cpu ∧ ¬MovingFormUndefined .x 28 0x001C cpu :=
  ⟨.inl (by decide), .inl (by decide), .inr (by decide), .inr (by decide), notUndefined _ _ _ _ (by decide),
    notUndefined _ _ _ _ (by decide)⟩

theorem witness_LpmReadsAProgramByte :
    ((core [(30, 0xFF), (31, 0x1F)] 0).pointer .z).toNat / 2 < cpu.cfg.flashWords ∧
      cpu.cfg.flashWords ≤ ((core [(31, 0x20)] 0).pointer .z).toNat / 2 := by decide

/-- R55: a plain-storage location that IN reads. -/
theorem witness_InAndOutMoveOneIoByte_plain_storage : (withIo 31 0x80).ioByte 31 = some 0x80 := by decide

theorem witness_InAndOutMoveOneIoByte :
    Config.refcfg.WF ∧ smallCfg.WF ∧ smallCfg.spWidth = .bits8 ∧ (0x3F : IoAddr).val = Config.refcfg.ioSreg ∧
      (0x3D : IoAddr).val = Config.refcfg.ioSpl ∧ (0x3E : IoAddr).val = smallCfg.ioSph := by decide

/-- A device that takes its first access and raises on its second. -/
theorem witness_InAndOutMoveOneIoByte_device :
    deviceRaises (deviceCfg (some 1)) [] 0x10 = false ∧
      deviceRaises (deviceCfg (some 1)) [.ioRead 0x10, .wdr] 0x10 = true ∧
      deviceRaises (deviceCfg (some 1)) [.ioRead 0x10] 0x3F = false ∧
      deviceRaises (deviceCfg none) [.ioRead 0x10] 0x10 = false ∧ deviceRaises Config.refcfg [] 0x10 = false := by decide

theorem witness_IoBitInstructionsChangeOneBit :
    Config.refcfg.WF ∧ Config.refcfg.ioDevice = .plainStorage := by decide

theorem witness_IoBitInstructionsChangeOneBit_device :
    (deviceCfg (some 0)).WF ∧ platformCfg.WF :=
  ⟨by decide, by decide⟩

theorem witness_IoBitInstructionsChangeOneBit_device_raises :
    platformCfg.ioDevice ≠ .plainStorage ∧ deviceRaises platformCfg [] (ioOfLow 31) = false ∧
      deviceRaises (deviceCfg (some 0)) [] (ioOfLow 31) = true := by decide

theorem witness_PushStoresAndMovesSpDown :
    isSpLocation cpu.cfg 0x005D = true ∧ isSpLocation cpu.cfg 0x005E = true ∧
      isSpLocation cpu.cfg 0x0260 = false ∧ route cpu.cfg 0x0260 = .unmapped ∧
      isSpLocation cpu.cfg 0x005F = false ∧ Completes cpu.cfg [] 0x005F ∧
      isSpLocation cpu.cfg 0x005C = false ∧ Completes cpu.cfg [] 0x005C := by decide

theorem witness_PopMovesSpUpAndLoads :
    Completes (stackAt 0x025E).cfg [] ((stackAt 0x025E).popSlot 0) ∧
      route (stackAt 0x025F).cfg ((stackAt 0x025F).popSlot 0) = .unmapped ∧
      Completes (stackAt 0xFFFF).cfg [] ((stackAt 0xFFFF).popSlot 0) := by decide

theorem witness_StatusBitInstructionsWriteOneBit : (7 : BitNum) = 7 ∧ (0 : BitNum) ≠ 7 := by decide

theorem witness_McuControlByTheParameters :
    cpu.cfg.breakMode = .refuse ∧ cpu.cfg.sleepMode = .hold ∧
      (under { Config.refcfg with breakMode := .nop, sleepMode := .nop }).cfg.breakMode = .nop ∧
      (under { Config.refcfg with breakMode := .nop, sleepMode := .nop }).cfg.sleepMode = .nop ∧
      (under { Config.refcfg with breakMode := .stop }).cfg.breakMode = .stop := by decide

theorem witness_OnlyListedFlagsChange :
    cpu.cfg.WF ∧ (∃ t, exec (.inc 0) cpu = .next t) ∧ writesData (.inc 0) = false ∧
      Flag.c ∉ flagsWritten cpu.cfg (.inc 0) := ⟨by decide, ⟨_, rfl⟩, by decide, by decide⟩

theorem witness_SignedFlagFollowsArithmetic :
    (∃ t, exec (.lsr 0) cpu = .next t) ∧ Flag.n ∈ flagsWritten cpu.cfg (.lsr 0) ∧
      Flag.s ∈ flagsWritten cpu.cfg (.lsr 0) := ⟨⟨_, rfl⟩, by decide, by decide⟩

end Sys2Proof.Tests
end

/-! # Addition and the logic instructions (spec/41_arithmetic_logic.md R110, R111, R113) -/

section
/-! ## The end of an arithmetic instruction: what it writes and its frame (R110) -/

namespace Sys2Proof.Machine

@[simp] theorem State.reg_writeResult (s : State) (d j : Reg) (r x : Byte) :
    (s.writeResult d r x).reg j = if j = d then r else s.reg j := s.reg_setReg d j r

@[simp] theorem State.flag_writeResult (s : State) (d : Reg) (r x : Byte) (f : Flag) :
    (s.writeResult d r x).flag f = getFlag x f := rfl

/-- The frame of a result: one register, and the flags in which the new SREG may differ from the old one. -/
theorem writeResult_advances (s : State) (d : Reg) (r x : Byte) {fs : List Flag}
    (hx : ∀ f, f ∉ fs → getFlag x f = getFlag s.sreg f) :
    Advances 1 { regs := [d], flags := fs } s (s.writeResult d r x) where
  pc := rfl
  frame := (((OnlyTouches.refl _ s).setReg (List.mem_singleton_self d) r).withSreg x hx).withPc _

theorem getFlag_putHCNVZS_of_notMem (x : Byte) (a : ArithFlags) {f : Flag} (h : f ∉ sixFlags) :
    getFlag (putHCNVZS x a) f = getFlag x f := by
  cases f <;> simp_all [sixFlags]

theorem getFlag_putCNVZS_of_notMem (x : Byte) (a : ArithFlags) {f : Flag} (h : f ∉ fiveFlags) :
    getFlag (putCNVZS x a) f = getFlag x f := by
  cases f <;> simp_all [fiveFlags]

theorem getFlag_putNVZS_of_notMem (x : Byte) (a : ArithFlags) {f : Flag} (h : f ∉ logicalFlags) :
    getFlag (putNVZS x a) f = getFlag x f := by
  cases f <;> simp_all [logicalFlags]

end Sys2Proof.Machine
end

section
/-! ## ADD and ADC: the formulas on bits are the comparisons of sums (R111) -/

namespace Sys2Proof.Machine

theorem carryByte_eq_setWidth (b : Bool) : carryByte b = (BitVec.ofBool b).setWidth 8 := by
  cases b <;> rfl

theorem toNat_addResult (a b : Byte) (cin : Bool) :
    (addResult a b cin).toNat = (a.toNat + b.toNat + cin.toNat) % 256 := by
  cases cin <;> simp [addResult, carryByte]

theorem addResult_eq_ofNat (a b : Byte) (cin : Bool) :
    addResult a b cin = BitVec.ofNat 8 (a.toNat + b.toNat + cin.toNat) :=
  BitVec.eq_of_toNat_eq (toNat_addResult a b cin)

/-- A sum bit is the exclusive or of the operands' bits and the carry into it. -/
theorem getBit_addResult (a b : Byte) (cin : Bool) (k : BitNum) :
    getBit (addResult a b cin) k = (getBit a k ^^ (getBit b k ^^ BitVec.carry k.val a b cin)) := by
  unfold addResult
  rw [carryByte_eq_setWidth]
  exact BitVec.getLsbD_add_add_bool k.isLt a b cin

/-- R111's formula on bits is the carry of the addition out of bit `k`: the result's bit tells the carry into it, and the
carry out is the majority of the two operand bits and that. -/
theorem addCarryAt_eq_carry (a b : Byte) (cin : Bool) (k : BitNum) :
    addCarryAt k a b (addResult a b cin) = BitVec.carry (k.val + 1) a b cin := by
  rw [addCarryAt, getBit_addResult, BitVec.carry_succ]
  change _ = Bool.atLeastTwo (getBit a k) (getBit b k) _
  cases getBit a k <;> cases getBit b k <;> cases BitVec.carry k.val a b cin <;> rfl

theorem addFlags_c_eq_sum (a b : Byte) (cin : Bool) :
    (addFlags a b cin).c = decide (256 ≤ a.toNat + b.toNat + cin.toNat) := by
  have hcarry : (addFlags a b cin).c = BitVec.carry 8 a b cin := addCarryAt_eq_carry a b cin 7
  rw [hcarry, BitVec.carry, Nat.mod_eq_of_lt a.isLt, Nat.mod_eq_of_lt b.isLt]

theorem addFlags_h_eq_sum (a b : Byte) (cin : Bool) :
    (addFlags a b cin).h = decide (16 ≤ a.toNat % 16 + b.toNat % 16 + cin.toNat) :=
  addCarryAt_eq_carry a b cin 3

theorem getBit_seven (x : Byte) : getBit x 7 = decide (128 ≤ x.toNat) := BitVec.msb_eq_decide x

/-- V is signed overflow: the top bits are the signs, and the sum is out of range exactly where two operands of one sign
give a result of the other. -/
theorem addFlags_v_eq_overflow (a b : Byte) (cin : Bool) :
    (addFlags a b cin).v =
      decide (a.toInt + b.toInt + (cin.toNat : Int) < -128 ∨ 127 < a.toInt + b.toInt + (cin.toNat : Int)) := by
  have ha := a.isLt
  have hb := b.isLt
  have hc := cin.toNat_le
  simp only [addFlags, getBit_seven, toNat_addResult, BitVec.toInt_eq_toNat_cond]
  rw [Bool.eq_iff_iff]
  simp only [Bool.or_eq_true, Bool.and_eq_true, Bool.not_eq_true', decide_eq_true_eq, decide_eq_false_iff_not]
  omega

theorem addInto_advances (d : Reg) (b : Byte) (cin : Bool) (s : State) :
    Advances 1 { regs := [d], flags := sixFlags } s (addInto d b cin s) :=
  writeResult_advances s d _ _ fun _ => getFlag_putHCNVZS_of_notMem s.sreg _

theorem reg_addInto (d : Reg) (b : Byte) (cin : Bool) (s : State) :
    (addInto d b cin s).reg d = addResult (s.reg d) b cin := by
  simp [addInto]

theorem flag_addInto (d : Reg) (b : Byte) (cin : Bool) (s : State) (f : Flag) :
    (addInto d b cin s).flag f = getFlag (putHCNVZS s.sreg (addFlags (s.reg d) b cin)) f := rfl

theorem addInto_additionFlags (d : Reg) (b : Byte) (cin : Bool) (s : State) :
    AdditionFlags (s.reg d) b cin ((addInto d b cin s).reg d) (addInto d b cin s) := by
  rw [reg_addInto]
  constructor <;> simp only [flag_addInto, getFlag_putHCNVZS]
  case cSum => exact addFlags_c_eq_sum _ _ _
  case hSum => exact addFlags_h_eq_sum _ _ _
  case vSum => exact addFlags_v_eq_overflow _ _ _
  all_goals rfl

/-- Settles O22: both instructions are `addInto`, ADD without and ADC with the carry flag. -/
theorem additionWritesSumAndFlags : Obligations.AdditionWritesSumAndFlags := by
  intro d r s
  have sum (cin : Bool) := (reg_addInto d (s.reg r) cin s).trans (addResult_eq_ofNat _ _ cin)
  exact ⟨⟨_, rfl, addInto_advances _ _ _ _, sum false, addInto_additionFlags _ _ _ _⟩,
    ⟨_, rfl, addInto_advances _ _ _ _, sum (s.flag .c), addInto_additionFlags _ _ _ _⟩⟩

end Sys2Proof.Machine
end

section
/-! ## The logic instructions (R113) -/

namespace Sys2Proof.Machine

theorem ff_sub_eq_not (k : Byte) : 0xFF - k = ~~~k := BitVec.allOnes_sub_eq_not k

theorem logicInto_advances (d : Reg) (v : Byte) (s : State) :
    Advances 1 { regs := [d], flags := logicalFlags } s (logicInto d v s) :=
  writeResult_advances s d _ _ fun _ => getFlag_putNVZS_of_notMem s.sreg _

/-- A state whose Z, N, V and S are those that `logicFlags` computes has the flags of R113. -/
theorem logicalFlags_of_flag_eq {v : Byte} {t : State} (hv : t.flag .v = (logicFlags v).v)
    (hn : t.flag .n = (logicFlags v).n) (hz : t.flag .z = (logicFlags v).z) (hs : t.flag .s = (logicFlags v).s) :
    LogicalFlags v t where
  v := hv
  n := hn
  z := hz
  s := by rw [hs, hn, hv]; rfl

/-- An instruction that is `logicInto` computes its result and the flags of R113. -/
theorem computesLogic_of_exec_eq {i : Instr} {d : Reg} {v : Byte} {s : State}
    (h : exec i s = .next (logicInto d v s)) : ComputesLogic i d v s := by
  refine ⟨_, h, logicInto_advances d v s, ?_, logicalFlags_of_flag_eq ?_ ?_ ?_ ?_⟩ <;> simp [logicInto]

theorem exec_cbr (d : Reg) (k : Byte) (s : State) :
    exec (.cbr d k) s = .next (logicInto d (s.reg d &&& ~~~k) s) := by
  rw [← ff_sub_eq_not]; rfl

theorem exec_tst (d : Reg) (s : State) : exec (.tst d) s = .next (logicInto d (s.reg d) s) := by
  have hand : s.reg d &&& s.reg d = s.reg d := BitVec.and_self
  conv_rhs => rw [← hand]
  rfl

theorem exec_clr (d : Reg) (s : State) : exec (.clr d) s = .next (logicInto d 0x00 s) := by
  have hxor : s.reg d ^^^ s.reg d = 0x00 := BitVec.xor_self
  rw [← hxor]; rfl

/-- R127: COM writes the complement and the flags of a logic operation, with C set. -/
theorem exec_com (d : Reg) (s : State) :
    exec (.com d) s = .next (s.writeResult d (~~~s.reg d) (putCNVZS s.sreg (comFlags (~~~s.reg d)))) := by
  rw [← ff_sub_eq_not]; rfl

theorem com_writes_complement_and_c (d : Reg) (s : State) :
    ∃ t, exec (.com d) s = .next t ∧ Advances 1 { regs := [d], flags := fiveFlags } s t ∧
      t.reg d = ~~~s.reg d ∧ LogicalFlags (~~~s.reg d) t ∧ t.flag .c = true := by
  refine ⟨_, exec_com d s, writeResult_advances s d _ _ fun _ => getFlag_putCNVZS_of_notMem s.sreg _, ?_,
    logicalFlags_of_flag_eq ?_ ?_ ?_ ?_, ?_⟩ <;> simp [comFlags, ArithFlags.s]

/-- Settles O26: nine instructions are `logicInto`, and COM sets C beside. -/
theorem logicWritesResultAndFlags : Obligations.LogicWritesResultAndFlags := by
  intro d r k s
  exact ⟨computesLogic_of_exec_eq rfl, computesLogic_of_exec_eq rfl, computesLogic_of_exec_eq rfl,
    computesLogic_of_exec_eq rfl, computesLogic_of_exec_eq rfl, computesLogic_of_exec_eq rfl,
    computesLogic_of_exec_eq (exec_cbr d k s), computesLogic_of_exec_eq (exec_tst d s),
    computesLogic_of_exec_eq (exec_clr d s), com_writes_complement_and_c d s⟩

end Sys2Proof.Machine
end

section
/-! # The encoding (spec/30_encoding.md): fields and formats are inverse to each other (R84 to R86) -/

namespace Sys2Proof

/-! ## The bits of a field -/

theorem word_ext {x y : Word} (h : ∀ i < 16, x.getLsbD i = y.getLsbD i) : x = y := BitVec.eq_of_getLsbD_eq h

theorem ofNat_val_inj {n : Nat} {a b : Fin (2 ^ n)} (h : BitVec.ofNat n a.val = BitVec.ofNat n b.val) : a = b := by
  have hval := congrArg BitVec.toNat h
  rw [BitVec.toNat_ofNat, BitVec.toNat_ofNat, Nat.mod_eq_of_lt a.isLt, Nat.mod_eq_of_lt b.isLt] at hval
  exact Fin.ext hval

theorem getLsbD_extract_append (w : Word) (a m b n i : Nat) :
    (w.extractLsb' a m ++ w.extractLsb' b n).getLsbD i =
      if i < n then w.getLsbD (b + i) else (decide (i < n + m) && w.getLsbD (a + (i - n))) := by
  simp only [BitVec.getLsbD_append, BitVec.getLsbD_extractLsb']
  split
  · simp [*]
  · congr 1
    simp only [decide_eq_decide]
    omega

theorem fieldD_bit (w : Word) (i : Nat) : (regBits (fieldD w)).getLsbD i = (decide (i < 5) && w.getLsbD (4 + i)) := by
  rw [regBits_fieldD, BitVec.getLsbD_extractLsb']

theorem fieldR_bit (w : Word) (i : Nat) :
    (regBits (fieldR w)).getLsbD i =
      if i < 4 then w.getLsbD (0 + i) else (decide (i < 4 + 1) && w.getLsbD (9 + (i - 4))) := by
  rw [regBits_fieldR]
  exact getLsbD_extract_append w 9 1 0 4 i

theorem fieldUpper_bit (w : Word) (i : Nat) :
    (BitVec.ofNat 4 ((fieldUpper w).val - 16)).getLsbD i = (decide (i < 4) && w.getLsbD (4 + i)) := by
  simp only [fieldUpper, Nat.add_sub_cancel_left, BitVec.ofNat_toNat, BitVec.setWidth_eq]
  exact BitVec.getLsbD_extractLsb' 4 4 w i

theorem fieldPair_bit (w : Word) (i : Nat) :
    (BitVec.ofNat 2 (((fieldPair w).val - 24) / 2)).getLsbD i = (decide (i < 2) && w.getLsbD (4 + i)) := by
  simp only [fieldPair, Nat.add_sub_cancel_left, Nat.mul_div_cancel_left _ Nat.two_pos, BitVec.ofNat_toNat,
    BitVec.setWidth_eq]
  exact BitVec.getLsbD_extractLsb' 4 2 w i

theorem fieldK8_bit (w : Word) (i : Nat) :
    (fieldK8 w).getLsbD i =
      if i < 4 then w.getLsbD (0 + i) else (decide (i < 4 + 4) && w.getLsbD (8 + (i - 4))) :=
  getLsbD_extract_append w 8 4 0 4 i

theorem fieldK6_bit (w : Word) (i : Nat) :
    (fieldK6 w).getLsbD i =
      if i < 4 then w.getLsbD (0 + i) else (decide (i < 4 + 2) && w.getLsbD (6 + (i - 4))) :=
  getLsbD_extract_append w 6 2 0 4 i

theorem fieldQ_bit (w : Word) (i : Nat) :
    (fieldQ w).getLsbD i =
      if i < 3 then w.getLsbD (0 + i)
      else if i - 3 < 2 then w.getLsbD (10 + (i - 3))
      else (decide (i - 3 - 2 < 1) && w.getLsbD (13 + (i - 3 - 2))) := by
  change BitVec.getLsbD (w := 1 + 2 + 3) (w.extractLsb' 13 1 ++ w.extractLsb' 10 2 ++ w.extractLsb' 0 3) i = _
  simp only [BitVec.getLsbD_append, BitVec.getLsbD_extractLsb']
  by_cases h3 : i < 3
  · simp [h3]
  · by_cases h5 : i - 3 < 2 <;> simp [h3, h5]

theorem fieldOff7_bit (w : Word) (i : Nat) : (fieldOff7 w).getLsbD i = (decide (i < 7) && w.getLsbD (3 + i)) :=
  BitVec.getLsbD_extractLsb' 3 7 w i

theorem fieldOff12_bit (w : Word) (i : Nat) : (fieldOff12 w).getLsbD i = (decide (i < 12) && w.getLsbD (0 + i)) :=
  BitVec.getLsbD_extractLsb' 0 12 w i

theorem fieldA6_bit (w : Word) (i : Nat) :
    (BitVec.ofNat 6 (fieldA6 w).val).getLsbD i =
      if i < 4 then w.getLsbD (0 + i) else (decide (i < 4 + 2) && w.getLsbD (9 + (i - 4))) := by
  simp only [fieldA6, BitVec.ofNat_toNat, BitVec.setWidth_eq]
  exact getLsbD_extract_append w 9 2 0 4 i

theorem fieldA5_bit (w : Word) (i : Nat) :
    (BitVec.ofNat 5 (fieldA5 w).val).getLsbD i = (decide (i < 5) && w.getLsbD (3 + i)) := by
  simp only [fieldA5, BitVec.ofNat_toNat, BitVec.setWidth_eq]
  exact BitVec.getLsbD_extractLsb' 3 5 w i

theorem fieldB_bit (w : Word) (i : Nat) : (numBits (fieldB w)).getLsbD i = (decide (i < 3) && w.getLsbD (0 + i)) := by
  rw [numBits_fieldB, BitVec.getLsbD_extractLsb']

theorem fieldS_bit (w : Word) (i : Nat) : (numBits (fieldS w)).getLsbD i = (decide (i < 3) && w.getLsbD (4 + i)) := by
  rw [numBits_fieldS, BitVec.getLsbD_extractLsb']

/-! ## Format RR -/

theorem formatRR_mask (op : BitVec 6) (d r : Reg) : formatRR op d r &&& 0xFC00 = formatRR op 0 0 := by
  refine word_ext fun i hi => ?_
  simp only [BitVec.getLsbD_and, formatRR_bit]
  interval_cases i <;> simp <;> rfl

theorem fieldD_formatRR (op : BitVec 6) (d r : Reg) : fieldD (formatRR op d r) = d := by
  refine regBits_inj (BitVec.eq_of_getLsbD_eq fun i hi => ?_)
  simp only [fieldD_bit, formatRR_bit]
  interval_cases i <;> simp

theorem fieldR_formatRR (op : BitVec 6) (d r : Reg) : fieldR (formatRR op d r) = r := by
  refine regBits_inj (BitVec.eq_of_getLsbD_eq fun i hi => ?_)
  simp only [fieldR_bit, formatRR_bit]
  interval_cases i <;> simp

theorem formatRR_fields {w : Word} {op : BitVec 6} (h : formatRR op 0 0 = w &&& 0xFC00) :
    formatRR op (fieldD w) (fieldR w) = w := by
  refine word_ext fun i hi => ?_
  have hbit := congrArg (BitVec.getLsbD · i) h
  revert hbit
  simp only [BitVec.getLsbD_and, formatRR_bit, fieldD_bit, fieldR_bit]
  interval_cases i <;> simp

/-! ## Format RI -/

theorem formatRI_mask (op : BitVec 4) (d : Reg) (k : Byte) : formatRI op d k &&& 0xF000 = formatRI op 16 0 := by
  refine word_ext fun i hi => ?_
  simp only [BitVec.getLsbD_and, formatRI_bit]
  interval_cases i <;> simp

theorem fieldUpper_formatRI (op : BitVec 4) {d : Reg} (hd : isUpperReg d = true) (k : Byte) :
    fieldUpper (formatRI op d k) = d := by
  have hbits : (formatRI op d k).extractLsb' 4 4 = BitVec.ofNat 4 (d.val - 16) := by
    refine BitVec.eq_of_getLsbD_eq fun i hi => ?_
    simp only [BitVec.getLsbD_extractLsb', formatRI_bit]
    interval_cases i <;> simp
  have hupper : 16 ≤ d.val := of_decide_eq_true hd
  refine Fin.ext ?_
  simp only [fieldUpper, hbits, BitVec.toNat_ofNat]
  omega

theorem fieldK8_formatRI (op : BitVec 4) (d : Reg) (k : Byte) : fieldK8 (formatRI op d k) = k := by
  refine BitVec.eq_of_getLsbD_eq fun i hi => ?_
  simp only [fieldK8_bit, formatRI_bit]
  interval_cases i <;> simp

theorem formatRI_fields {w : Word} {op : BitVec 4} (h : formatRI op 16 0 = w &&& 0xF000) :
    formatRI op (fieldUpper w) (fieldK8 w) = w := by
  refine word_ext fun i hi => ?_
  have hbit := congrArg (BitVec.getLsbD · i) h
  revert hbit
  simp only [BitVec.getLsbD_and, formatRI_bit, fieldUpper_bit, fieldK8_bit]
  interval_cases i <;> simp

/-! ## Format R1 -/

theorem formatR1_mask (d : Reg) (op : BitVec 4) : formatR1 d op &&& 0xFE0F = formatR1 0 op := by
  refine word_ext fun i hi => ?_
  simp only [BitVec.getLsbD_and, formatR1_bit]
  interval_cases i <;> simp <;> rfl

theorem fieldD_formatR1 (d : Reg) (op : BitVec 4) : fieldD (formatR1 d op) = d := by
  refine regBits_inj (BitVec.eq_of_getLsbD_eq fun i hi => ?_)
  simp only [fieldD_bit, formatR1_bit]
  interval_cases i <;> simp

theorem formatR1_fields {w : Word} {op : BitVec 4} (h : formatR1 0 op = w &&& 0xFE0F) :
    formatR1 (fieldD w) op = w := by
  refine word_ext fun i hi => ?_
  have hbit := congrArg (BitVec.getLsbD · i) h
  revert hbit
  simp only [BitVec.getLsbD_and, formatR1_bit, fieldD_bit]
  interval_cases i <;> simp

/-! ## Format IW -/

theorem formatIW_mask (o : BitVec 1) (d : Reg) (k : BitVec 6) : formatIW o d k &&& 0xFF00 = formatIW o 24 0 := by
  refine word_ext fun i hi => ?_
  simp only [BitVec.getLsbD_and, formatIW_bit]
  interval_cases i <;> simp

theorem isPairReg_iff (d : Reg) : isPairReg d = true ↔ d = 24 ∨ d = 26 ∨ d = 28 ∨ d = 30 := by
  revert d; decide

theorem fieldPair_formatIW (o : BitVec 1) {d : Reg} (hd : isPairReg d = true) (k : BitVec 6) :
    fieldPair (formatIW o d k) = d := by
  have hbits : (formatIW o d k).extractLsb' 4 2 = BitVec.ofNat 2 ((d.val - 24) / 2) := by
    refine BitVec.eq_of_getLsbD_eq fun i hi => ?_
    simp only [BitVec.getLsbD_extractLsb', formatIW_bit]
    interval_cases i <;> simp
  refine Fin.ext ?_
  simp only [fieldPair, hbits]
  rcases (isPairReg_iff d).1 hd with rfl | rfl | rfl | rfl <;> rfl

theorem fieldK6_formatIW (o : BitVec 1) (d : Reg) (k : BitVec 6) : fieldK6 (formatIW o d k) = k := by
  refine BitVec.eq_of_getLsbD_eq fun i hi => ?_
  simp only [fieldK6_bit, formatIW_bit]
  interval_cases i <;> simp

theorem formatIW_fields {w : Word} {o : BitVec 1} (h : formatIW o 24 0 = w &&& 0xFF00) :
    formatIW o (fieldPair w) (fieldK6 w) = w := by
  refine word_ext fun i hi => ?_
  have hbit := congrArg (BitVec.getLsbD · i) h
  revert hbit
  simp only [BitVec.getLsbD_and, formatIW_bit, fieldPair_bit, fieldK6_bit]
  interval_cases i <;> simp

/-! ## Formats LS and LS32 -/

theorem formatLS_mask (s : BitVec 1) (d : Reg) (mode : BitVec 4) :
    formatLS s d mode &&& 0xFE0F = formatLS s 0 mode := by
  refine word_ext fun i hi => ?_
  simp only [BitVec.getLsbD_and, formatLS_bit]
  interval_cases i <;> simp <;> rfl

theorem fieldD_formatLS (s : BitVec 1) (d : Reg) (mode : BitVec 4) : fieldD (formatLS s d mode) = d := by
  refine regBits_inj (BitVec.eq_of_getLsbD_eq fun i hi => ?_)
  simp only [fieldD_bit, formatLS_bit]
  interval_cases i <;> simp

theorem formatLS_fields {w : Word} {s : BitVec 1} {mode : BitVec 4} (h : formatLS s 0 mode = w &&& 0xFE0F) :
    formatLS s (fieldD w) mode = w := by
  refine word_ext fun i hi => ?_
  have hbit := congrArg (BitVec.getLsbD · i) h
  revert hbit
  simp only [BitVec.getLsbD_and, formatLS_bit, fieldD_bit]
  interval_cases i <;> simp

/-! ## Format DISP -/

theorem formatDisp_mask (s : BitVec 1) (d : Reg) (y : BitVec 1) (q : BitVec 6) :
    formatDisp s d y q &&& 0xD208 = formatDisp s 0 y 0 := by
  refine word_ext fun i hi => ?_
  simp only [BitVec.getLsbD_and, formatDisp_bit]
  interval_cases i <;> simp <;> rfl

theorem fieldD_formatDisp (s : BitVec 1) (d : Reg) (y : BitVec 1) (q : BitVec 6) :
    fieldD (formatDisp s d y q) = d := by
  refine regBits_inj (BitVec.eq_of_getLsbD_eq fun i hi => ?_)
  simp only [fieldD_bit, formatDisp_bit]
  interval_cases i <;> simp

theorem fieldQ_formatDisp (s : BitVec 1) (d : Reg) (y : BitVec 1) (q : BitVec 6) :
    fieldQ (formatDisp s d y q) = q := by
  refine BitVec.eq_of_getLsbD_eq fun i hi => ?_
  simp only [fieldQ_bit, formatDisp_bit]
  interval_cases i <;> simp

theorem formatDisp_fields {w : Word} {s y : BitVec 1} (h : formatDisp s 0 y 0 = w &&& 0xD208) :
    formatDisp s (fieldD w) y (fieldQ w) = w := by
  refine word_ext fun i hi => ?_
  have hbit := congrArg (BitVec.getLsbD · i) h
  revert hbit
  simp only [BitVec.getLsbD_and, formatDisp_bit, fieldD_bit, fieldQ_bit]
  interval_cases i <;> simp

/-! ## Format IO -/

theorem formatIO_mask (s : BitVec 1) (a : IoAddr) (d : Reg) : formatIO s a d &&& 0xF800 = formatIO s 0 0 := by
  refine word_ext fun i hi => ?_
  simp only [BitVec.getLsbD_and, formatIO_bit]
  interval_cases i <;> simp <;> rfl

theorem fieldD_formatIO (s : BitVec 1) (a : IoAddr) (d : Reg) : fieldD (formatIO s a d) = d := by
  refine regBits_inj (BitVec.eq_of_getLsbD_eq fun i hi => ?_)
  simp only [fieldD_bit, formatIO_bit]
  interval_cases i <;> simp

theorem fieldA6_formatIO (s : BitVec 1) (a : IoAddr) (d : Reg) : fieldA6 (formatIO s a d) = a := by
  refine ofNat_val_inj (n := 6) (BitVec.eq_of_getLsbD_eq fun i hi => ?_)
  simp only [fieldA6_bit, formatIO_bit]
  interval_cases i <;> simp

theorem formatIO_fields {w : Word} {s : BitVec 1} (h : formatIO s 0 0 = w &&& 0xF800) :
    formatIO s (fieldA6 w) (fieldD w) = w := by
  refine word_ext fun i hi => ?_
  have hbit := congrArg (BitVec.getLsbD · i) h
  revert hbit
  simp only [BitVec.getLsbD_and, formatIO_bit, fieldD_bit, fieldA6_bit]
  interval_cases i <;> simp

/-! ## Format IOB -/

theorem formatIOB_mask (op : BitVec 2) (a : IoLow) (b : BitNum) :
    formatIOB op a b &&& 0xFF00 = formatIOB op 0 0 := by
  refine word_ext fun i hi => ?_
  simp only [BitVec.getLsbD_and, formatIOB_bit]
  interval_cases i <;> simp <;> rfl

theorem fieldA5_formatIOB (op : BitVec 2) (a : IoLow) (b : BitNum) : fieldA5 (formatIOB op a b) = a := by
  refine ofNat_val_inj (n := 5) (BitVec.eq_of_getLsbD_eq fun i hi => ?_)
  simp only [fieldA5_bit, formatIOB_bit]
  interval_cases i <;> simp

theorem fieldB_formatIOB (op : BitVec 2) (a : IoLow) (b : BitNum) : fieldB (formatIOB op a b) = b := by
  refine numBits_inj (BitVec.eq_of_getLsbD_eq fun i hi => ?_)
  simp only [fieldB_bit, formatIOB_bit]
  interval_cases i <;> simp

theorem formatIOB_fields {w : Word} {op : BitVec 2} (h : formatIOB op 0 0 = w &&& 0xFF00) :
    formatIOB op (fieldA5 w) (fieldB w) = w := by
  refine word_ext fun i hi => ?_
  have hbit := congrArg (BitVec.getLsbD · i) h
  revert hbit
  simp only [BitVec.getLsbD_and, formatIOB_bit, fieldA5_bit, fieldB_bit]
  interval_cases i <;> simp

/-! ## Format RB -/

theorem formatRB_mask (op : BitVec 2) (r : Reg) (b : BitNum) : formatRB op r b &&& 0xFE08 = formatRB op 0 0 := by
  refine word_ext fun i hi => ?_
  simp only [BitVec.getLsbD_and, formatRB_bit]
  interval_cases i <;> simp <;> rfl

theorem fieldD_formatRB (op : BitVec 2) (r : Reg) (b : BitNum) : fieldD (formatRB op r b) = r := by
  refine regBits_inj (BitVec.eq_of_getLsbD_eq fun i hi => ?_)
  simp only [fieldD_bit, formatRB_bit]
  interval_cases i <;> simp

theorem fieldB_formatRB (op : BitVec 2) (r : Reg) (b : BitNum) : fieldB (formatRB op r b) = b := by
  refine numBits_inj (BitVec.eq_of_getLsbD_eq fun i hi => ?_)
  simp only [fieldB_bit, formatRB_bit]
  interval_cases i <;> simp

theorem formatRB_fields {w : Word} {op : BitVec 2} (h : formatRB op 0 0 = w &&& 0xFE08) :
    formatRB op (fieldD w) (fieldB w) = w := by
  refine word_ext fun i hi => ?_
  have hbit := congrArg (BitVec.getLsbD · i) h
  revert hbit
  simp only [BitVec.getLsbD_and, formatRB_bit, fieldD_bit, fieldB_bit]
  interval_cases i <;> simp

/-! ## Format BR -/

theorem formatBR_mask (o : BitVec 1) (n : BitNum) (k : BitVec 7) : formatBR o n k &&& 0xFC00 = formatBR o 0 0 := by
  refine word_ext fun i hi => ?_
  simp only [BitVec.getLsbD_and, formatBR_bit]
  interval_cases i <;> simp <;> rfl

theorem fieldB_formatBR (o : BitVec 1) (n : BitNum) (k : BitVec 7) : fieldB (formatBR o n k) = n := by
  refine numBits_inj (BitVec.eq_of_getLsbD_eq fun i hi => ?_)
  simp only [fieldB_bit, formatBR_bit]
  interval_cases i <;> simp

theorem fieldOff7_formatBR (o : BitVec 1) (n : BitNum) (k : BitVec 7) : fieldOff7 (formatBR o n k) = k := by
  refine BitVec.eq_of_getLsbD_eq fun i hi => ?_
  simp only [fieldOff7_bit, formatBR_bit]
  interval_cases i <;> simp

theorem formatBR_fields {w : Word} {o : BitVec 1} (h : formatBR o 0 0 = w &&& 0xFC00) :
    formatBR o (fieldB w) (fieldOff7 w) = w := by
  refine word_ext fun i hi => ?_
  have hbit := congrArg (BitVec.getLsbD · i) h
  revert hbit
  simp only [BitVec.getLsbD_and, formatBR_bit, fieldB_bit, fieldOff7_bit]
  interval_cases i <;> simp

/-! ## Format REL -/

theorem formatRel_mask (o : BitVec 1) (k : BitVec 12) : formatRel o k &&& 0xF000 = formatRel o 0 := by
  refine word_ext fun i hi => ?_
  simp only [BitVec.getLsbD_and, formatRel_bit]
  interval_cases i <;> simp

theorem fieldOff12_formatRel (o : BitVec 1) (k : BitVec 12) : fieldOff12 (formatRel o k) = k := by
  refine BitVec.eq_of_getLsbD_eq fun i hi => ?_
  simp only [fieldOff12_bit, formatRel_bit]
  interval_cases i <;> simp

theorem formatRel_fields {w : Word} {o : BitVec 1} (h : formatRel o 0 = w &&& 0xF000) :
    formatRel o (fieldOff12 w) = w := by
  refine word_ext fun i hi => ?_
  have hbit := congrArg (BitVec.getLsbD · i) h
  revert hbit
  simp only [BitVec.getLsbD_and, formatRel_bit, fieldOff12_bit]
  interval_cases i <;> simp

/-! ## Format SF -/

theorem formatSF_mask (o : BitVec 1) (n : BitNum) : formatSF o n &&& 0xFF8F = formatSF o 0 := by
  refine word_ext fun i hi => ?_
  simp only [BitVec.getLsbD_and, formatSF_bit]
  interval_cases i <;> simp <;> rfl

theorem fieldS_formatSF (o : BitVec 1) (n : BitNum) : fieldS (formatSF o n) = n := by
  refine numBits_inj (BitVec.eq_of_getLsbD_eq fun i hi => ?_)
  simp only [fieldS_bit, formatSF_bit]
  interval_cases i <;> simp

theorem formatSF_fields {w : Word} {o : BitVec 1} (h : formatSF o 0 = w &&& 0xFF8F) :
    formatSF o (fieldS w) = w := by
  refine word_ext fun i hi => ?_
  have hbit := congrArg (BitVec.getLsbD · i) h
  revert hbit
  simp only [BitVec.getLsbD_and, formatSF_bit, fieldS_bit]
  interval_cases i <;> simp

end Sys2Proof
end

section
/-! # Decoding and encoding are inverse to each other (spec/30_encoding.md R81, R82, R84 to R92) -/

namespace Sys2Proof

/-! ## The second word (R82) -/

/-- Whether an instruction has a second word (R82). -/
def Instr.hasSecondWord : Instr → Bool
  | .lds _ _ => true
  | .sts _ _ => true
  | _ => false

/-- The second word of an instruction: the data address of LDS and STS, and 0 where there is none, as the decoder
takes it (R82). -/
def Instr.secondWord : Instr → Word
  | .lds _ k => k
  | .sts k _ => k
  | _ => 0

theorem encode_eq (i : Instr) :
    encode i = if i.hasSecondWord then [encodeWord i, i.secondWord] else [encodeWord i] := by
  cases i <;> rfl

/-- One bit that R82's mask fixes tells a one-word instruction. -/
theorem isTwoWord_eq_false_of_bit {w : Word} (k : Nat) (hmask : (0xFC0F#16).getLsbD k = true)
    (hbit : w.getLsbD k ≠ (0x9000#16).getLsbD k) : isTwoWord w = false := by
  refine Bool.eq_false_iff.2 fun h => hbit ?_
  have hw := congrArg (BitVec.getLsbD · k) (show w &&& 0xFC0F#16 = 0x9000#16 from eq_of_beq h)
  simpa only [BitVec.getLsbD_and, hmask, Bool.and_true] using hw

theorem isTwoWord_formatRR {op : BitVec 6} (d r : Reg) (h : op.getLsbD 5 = false) :
    isTwoWord (formatRR op d r) = false :=
  isTwoWord_eq_false_of_bit 15 (by decide) (by rw [formatRR_bit]; simpa using h)

theorem isTwoWord_formatRI {op : BitVec 4} (d : Reg) (k : Byte) (h : op.getLsbD 2 = true ∨ op.getLsbD 3 = false) :
    isTwoWord (formatRI op d k) = false := by
  rcases h with h | h
  · exact isTwoWord_eq_false_of_bit 14 (by decide) (by rw [formatRI_bit]; simpa using h)
  · exact isTwoWord_eq_false_of_bit 15 (by decide) (by rw [formatRI_bit]; simpa using h)

theorem isTwoWord_formatR1 (d : Reg) (op : BitVec 4) : isTwoWord (formatR1 d op) = false :=
  isTwoWord_eq_false_of_bit 10 (by decide) (by rw [formatR1_bit]; simp)

theorem isTwoWord_formatIW (o : BitVec 1) (d : Reg) (k : BitVec 6) : isTwoWord (formatIW o d k) = false :=
  isTwoWord_eq_false_of_bit 10 (by decide) (by rw [formatIW_bit]; simp)

theorem isTwoWord_formatLS (s : BitVec 1) (d : Reg) (mode : BitVec 4) :
    isTwoWord (formatLS s d mode) = decide (mode = 0) := by
  by_cases h : mode = 0
  · subst h
    refine (beq_iff_eq.2 (word_ext fun i hi => ?_)).trans (decide_eq_true rfl).symm
    simp only [BitVec.getLsbD_and, formatLS_bit]
    interval_cases i <;> simp
  · obtain ⟨k, hk, hbit⟩ : ∃ k < 4, mode.getLsbD k ≠ (0#4).getLsbD k := by
      by_contra hall
      push Not at hall
      exact h (BitVec.eq_of_getLsbD_eq hall)
    rw [decide_eq_false h]
    refine isTwoWord_eq_false_of_bit k (by interval_cases k <;> decide) ?_
    rw [formatLS_bit, if_pos hk]
    interval_cases k <;> simpa using hbit

theorem isTwoWord_formatDisp (s : BitVec 1) (d : Reg) (y : BitVec 1) (q : BitVec 6) :
    isTwoWord (formatDisp s d y q) = false :=
  isTwoWord_eq_false_of_bit 12 (by decide) (by rw [formatDisp_bit]; simp)

theorem isTwoWord_formatIO (s : BitVec 1) (a : IoAddr) (d : Reg) : isTwoWord (formatIO s a d) = false :=
  isTwoWord_eq_false_of_bit 13 (by decide) (by rw [formatIO_bit]; simp)

theorem isTwoWord_formatIOB (op : BitVec 2) (a : IoLow) (b : BitNum) : isTwoWord (formatIOB op a b) = false :=
  isTwoWord_eq_false_of_bit 11 (by decide) (by rw [formatIOB_bit]; simp)

theorem isTwoWord_formatRB (op : BitVec 2) (r : Reg) (b : BitNum) : isTwoWord (formatRB op r b) = false :=
  isTwoWord_eq_false_of_bit 14 (by decide) (by rw [formatRB_bit]; simp)

theorem isTwoWord_formatBR (o : BitVec 1) (n : BitNum) (k : BitVec 7) : isTwoWord (formatBR o n k) = false :=
  isTwoWord_eq_false_of_bit 14 (by decide) (by rw [formatBR_bit]; simp)

theorem isTwoWord_formatRel (o : BitVec 1) (k : BitVec 12) : isTwoWord (formatRel o k) = false :=
  isTwoWord_eq_false_of_bit 14 (by decide) (by rw [formatRel_bit]; simp)

theorem isTwoWord_formatSF (o : BitVec 1) (n : BitNum) : isTwoWord (formatSF o n) = false :=
  isTwoWord_eq_false_of_bit 10 (by decide) (by rw [formatSF_bit]; simp)

/-- R82: the first word alone tells whether there is a second. -/
theorem isTwoWord_encodeWord (i : Instr) : isTwoWord (encodeWord i) = i.hasSecondWord := by
  cases i <;>
    simp [encodeWord, Instr.hasSecondWord, isTwoWord_formatRR, isTwoWord_formatRI, isTwoWord_formatR1,
      isTwoWord_formatIW, isTwoWord_formatLS, isTwoWord_formatDisp, isTwoWord_formatIO, isTwoWord_formatIOB,
      isTwoWord_formatRB, isTwoWord_formatBR, isTwoWord_formatRel, isTwoWord_formatSF] <;> rfl

/-! ## The row of an instruction decodes its word

In these lemmas `n` is the place of the row in the opcode map, and the row's pattern is the word of its format with all
operand fields zero. -/

theorem decodeWord_of_mask {n : Nat} {m p : Word} {build : Word → Word → Instr}
    (h : opcodeRows[n]? = some ⟨m, p, build⟩) {w0 : Word} (hw : w0 &&& m = p) (w1 : Word) :
    decodeWord w0 w1 = some (build w0 w1) :=
  decodeWord_of_row (List.mem_of_getElem? h) (beq_iff_eq.2 hw) w1

theorem formatRR_decodes {n : Nat} {op : BitVec 6} {p : Word} {f : Reg → Reg → Instr}
    (h : opcodeRows[n]? = some ⟨0xFC00, p, fun w _ => f (fieldD w) (fieldR w)⟩) (hp : formatRR op 0 0 = p)
    (d r : Reg) (w1 : Word) : decodeWord (formatRR op d r) w1 = some (f d r) := by
  rw [decodeWord_of_mask h ((formatRR_mask op d r).trans hp), fieldD_formatRR, fieldR_formatRR]

theorem formatRI_decodes {n : Nat} {op : BitVec 4} {p : Word} {f : Reg → Byte → Instr}
    (h : opcodeRows[n]? = some ⟨0xF000, p, fun w _ => f (fieldUpper w) (fieldK8 w)⟩) (hp : formatRI op 16 0 = p)
    {d : Reg} (hd : isUpperReg d = true) (k : Byte) (w1 : Word) : decodeWord (formatRI op d k) w1 = some (f d k) := by
  rw [decodeWord_of_mask h ((formatRI_mask op d k).trans hp), fieldUpper_formatRI op hd, fieldK8_formatRI]

theorem formatR1_decodes {n : Nat} {op : BitVec 4} {p : Word} {f : Reg → Instr}
    (h : opcodeRows[n]? = some ⟨0xFE0F, p, fun w _ => f (fieldD w)⟩) (hp : formatR1 0 op = p)
    (d : Reg) (w1 : Word) : decodeWord (formatR1 d op) w1 = some (f d) := by
  rw [decodeWord_of_mask h ((formatR1_mask d op).trans hp), fieldD_formatR1]

theorem formatIW_decodes {n : Nat} {o : BitVec 1} {p : Word} {f : Reg → BitVec 6 → Instr}
    (h : opcodeRows[n]? = some ⟨0xFF00, p, fun w _ => f (fieldPair w) (fieldK6 w)⟩) (hp : formatIW o 24 0 = p)
    {d : Reg} (hd : isPairReg d = true) (k : BitVec 6) (w1 : Word) : decodeWord (formatIW o d k) w1 = some (f d k) := by
  rw [decodeWord_of_mask h ((formatIW_mask o d k).trans hp), fieldPair_formatIW o hd, fieldK6_formatIW]

theorem formatLS_decodes {n : Nat} {s : BitVec 1} {mode : BitVec 4} {p : Word} {f : Reg → Instr}
    (h : opcodeRows[n]? = some ⟨0xFE0F, p, fun w _ => f (fieldD w)⟩) (hp : formatLS s 0 mode = p)
    (d : Reg) (w1 : Word) : decodeWord (formatLS s d mode) w1 = some (f d) := by
  rw [decodeWord_of_mask h ((formatLS_mask s d mode).trans hp), fieldD_formatLS]

theorem formatLS32_decodes {n : Nat} {s : BitVec 1} {mode : BitVec 4} {p : Word} {f : Reg → Word → Instr}
    (h : opcodeRows[n]? = some ⟨0xFE0F, p, fun w k => f (fieldD w) k⟩) (hp : formatLS s 0 mode = p)
    (d : Reg) (w1 : Word) : decodeWord (formatLS s d mode) w1 = some (f d w1) := by
  rw [decodeWord_of_mask h ((formatLS_mask s d mode).trans hp), fieldD_formatLS]

theorem formatDisp_decodes {n : Nat} {s y : BitVec 1} {p : Word} {f : Reg → BitVec 6 → Instr}
    (h : opcodeRows[n]? = some ⟨0xD208, p, fun w _ => f (fieldD w) (fieldQ w)⟩) (hp : formatDisp s 0 y 0 = p)
    (d : Reg) (q : BitVec 6) (w1 : Word) : decodeWord (formatDisp s d y q) w1 = some (f d q) := by
  rw [decodeWord_of_mask h ((formatDisp_mask s d y q).trans hp), fieldD_formatDisp, fieldQ_formatDisp]

theorem formatIO_decodes {n : Nat} {s : BitVec 1} {p : Word} {f : IoAddr → Reg → Instr}
    (h : opcodeRows[n]? = some ⟨0xF800, p, fun w _ => f (fieldA6 w) (fieldD w)⟩) (hp : formatIO s 0 0 = p)
    (a : IoAddr) (d : Reg) (w1 : Word) : decodeWord (formatIO s a d) w1 = some (f a d) := by
  rw [decodeWord_of_mask h ((formatIO_mask s a d).trans hp), fieldA6_formatIO, fieldD_formatIO]

theorem formatIOB_decodes {n : Nat} {op : BitVec 2} {p : Word} {f : IoLow → BitNum → Instr}
    (h : opcodeRows[n]? = some ⟨0xFF00, p, fun w _ => f (fieldA5 w) (fieldB w)⟩) (hp : formatIOB op 0 0 = p)
    (a : IoLow) (b : BitNum) (w1 : Word) : decodeWord (formatIOB op a b) w1 = some (f a b) := by
  rw [decodeWord_of_mask h ((formatIOB_mask op a b).trans hp), fieldA5_formatIOB, fieldB_formatIOB]

theorem formatRB_decodes {n : Nat} {op : BitVec 2} {p : Word} {f : Reg → BitNum → Instr}
    (h : opcodeRows[n]? = some ⟨0xFE08, p, fun w _ => f (fieldD w) (fieldB w)⟩) (hp : formatRB op 0 0 = p)
    (r : Reg) (b : BitNum) (w1 : Word) : decodeWord (formatRB op r b) w1 = some (f r b) := by
  rw [decodeWord_of_mask h ((formatRB_mask op r b).trans hp), fieldD_formatRB, fieldB_formatRB]

theorem formatBR_decodes {m : Nat} {o : BitVec 1} {p : Word} {f : BitNum → BitVec 7 → Instr}
    (h : opcodeRows[m]? = some ⟨0xFC00, p, fun w _ => f (fieldB w) (fieldOff7 w)⟩) (hp : formatBR o 0 0 = p)
    (n : BitNum) (k : BitVec 7) (w1 : Word) : decodeWord (formatBR o n k) w1 = some (f n k) := by
  rw [decodeWord_of_mask h ((formatBR_mask o n k).trans hp), fieldB_formatBR, fieldOff7_formatBR]

theorem formatRel_decodes {n : Nat} {o : BitVec 1} {p : Word} {f : BitVec 12 → Instr}
    (h : opcodeRows[n]? = some ⟨0xF000, p, fun w _ => f (fieldOff12 w)⟩) (hp : formatRel o 0 = p)
    (k : BitVec 12) (w1 : Word) : decodeWord (formatRel o k) w1 = some (f k) := by
  rw [decodeWord_of_mask h ((formatRel_mask o k).trans hp), fieldOff12_formatRel]

theorem formatSF_decodes {m : Nat} {o : BitVec 1} {p : Word} {f : BitNum → Instr}
    (h : opcodeRows[m]? = some ⟨0xFF8F, p, fun w _ => f (fieldS w)⟩) (hp : formatSF o 0 = p)
    (n : BitNum) (w1 : Word) : decodeWord (formatSF o n) w1 = some (f n) := by
  rw [decodeWord_of_mask h ((formatSF_mask o n).trans hp), fieldS_formatSF]

theorem constant_decodes {n : Nat} {w : Word} {i : Instr} (h : opcodeRows[n]? = some ⟨0xFFFF, w, fun _ _ => i⟩)
    (w1 : Word) : decodeWord w w1 = some i :=
  decodeWord_of_mask h (BitVec.and_allOnes (x := w)) w1

/-- R84 to R92: the words of a well-formed instruction decode to its base instruction. -/
theorem decodeWord_encodeWord : ∀ i : Instr, i.wellFormed = true → decodeWord (encodeWord i) i.secondWord = some i.base
  | .add d r, _ => formatRR_decodes (n := 0) rfl rfl d r _
  | .adc d r, _ => formatRR_decodes (n := 1) rfl rfl d r _
  | .adiw _ k, h => formatIW_decodes (n := 2) rfl rfl h k _
  | .sub d r, _ => formatRR_decodes (n := 3) rfl rfl d r _
  | .subi _ k, h => formatRI_decodes (n := 4) rfl rfl h k _
  | .sbc d r, _ => formatRR_decodes (n := 5) rfl rfl d r _
  | .sbci _ k, h => formatRI_decodes (n := 6) rfl rfl h k _
  | .sbiw _ k, h => formatIW_decodes (n := 7) rfl rfl h k _
  | .and d r, _ => formatRR_decodes (n := 8) rfl rfl d r _
  | .andi _ k, h => formatRI_decodes (n := 9) rfl rfl h k _
  | .or d r, _ => formatRR_decodes (n := 10) rfl rfl d r _
  | .ori _ k, h => formatRI_decodes (n := 11) rfl rfl h k _
  | .eor d r, _ => formatRR_decodes (n := 12) rfl rfl d r _
  | .com d, _ => formatR1_decodes (n := 13) rfl rfl d _
  | .neg d, _ => formatR1_decodes (n := 14) rfl rfl d _
  | .sbr _ k, h => formatRI_decodes (n := 11) rfl rfl h k _
  | .cbr _ k, h => formatRI_decodes (n := 9) rfl rfl h (0xFF - k) _
  | .inc d, _ => formatR1_decodes (n := 15) rfl rfl d _
  | .dec d, _ => formatR1_decodes (n := 16) rfl rfl d _
  | .tst d, _ => formatRR_decodes (n := 8) rfl rfl d d _
  | .clr d, _ => formatRR_decodes (n := 12) rfl rfl d d _
  | .ser _, h => formatRI_decodes (n := 34) rfl rfl h 0xFF _
  | .rjmp k, _ => formatRel_decodes (n := 17) rfl rfl k _
  | .ijmp, _ => constant_decodes (n := 18) rfl _
  | .rcall k, _ => formatRel_decodes (n := 19) rfl rfl k _
  | .icall, _ => constant_decodes (n := 20) rfl _
  | .ret, _ => constant_decodes (n := 21) rfl _
  | .reti, _ => constant_decodes (n := 22) rfl _
  | .cpse d r, _ => formatRR_decodes (n := 23) rfl rfl d r _
  | .cp d r, _ => formatRR_decodes (n := 24) rfl rfl d r _
  | .cpc d r, _ => formatRR_decodes (n := 25) rfl rfl d r _
  | .cpi _ k, h => formatRI_decodes (n := 26) rfl rfl h k _
  | .sbrc r b, _ => formatRB_decodes (n := 27) rfl rfl r b _
  | .sbrs r b, _ => formatRB_decodes (n := 28) rfl rfl r b _
  | .sbic a b, _ => formatIOB_decodes (n := 29) rfl rfl a b _
  | .sbis a b, _ => formatIOB_decodes (n := 30) rfl rfl a b _
  | .brbs n k, _ => formatBR_decodes (m := 31) rfl rfl n k _
  | .brbc n k, _ => formatBR_decodes (m := 32) rfl rfl n k _
  | .breq k, _ => formatBR_decodes (m := 31) rfl rfl 1 k _
  | .brne k, _ => formatBR_decodes (m := 32) rfl rfl 1 k _
  | .brcs k, _ => formatBR_decodes (m := 31) rfl rfl 0 k _
  | .brcc k, _ => formatBR_decodes (m := 32) rfl rfl 0 k _
  | .brsh k, _ => formatBR_decodes (m := 32) rfl rfl 0 k _
  | .brlo k, _ => formatBR_decodes (m := 31) rfl rfl 0 k _
  | .brmi k, _ => formatBR_decodes (m := 31) rfl rfl 2 k _
  | .brpl k, _ => formatBR_decodes (m := 32) rfl rfl 2 k _
  | .brge k, _ => formatBR_decodes (m := 32) rfl rfl 4 k _
  | .brlt k, _ => formatBR_decodes (m := 31) rfl rfl 4 k _
  | .brhs k, _ => formatBR_decodes (m := 31) rfl rfl 5 k _
  | .brhc k, _ => formatBR_decodes (m := 32) rfl rfl 5 k _
  | .brts k, _ => formatBR_decodes (m := 31) rfl rfl 6 k _
  | .brtc k, _ => formatBR_decodes (m := 32) rfl rfl 6 k _
  | .brvs k, _ => formatBR_decodes (m := 31) rfl rfl 3 k _
  | .brvc k, _ => formatBR_decodes (m := 32) rfl rfl 3 k _
  | .brie k, _ => formatBR_decodes (m := 31) rfl rfl 7 k _
  | .brid k, _ => formatBR_decodes (m := 32) rfl rfl 7 k _
  | .mov d r, _ => formatRR_decodes (n := 33) rfl rfl d r _
  | .ldi _ k, h => formatRI_decodes (n := 34) rfl rfl h k _
  | .lds d _, _ => formatLS32_decodes (n := 35) (f := .lds) rfl rfl d _
  | .ldX d, _ => formatLS_decodes (n := 36) rfl rfl d _
  | .ldXInc d, _ => formatLS_decodes (n := 37) rfl rfl d _
  | .ldXDec d, _ => formatLS_decodes (n := 38) rfl rfl d _
  | .ldY d, _ => formatDisp_decodes (n := 41) (f := fun d q => if q = 0 then .ldY d else .lddY d q) rfl rfl d 0 _
  | .ldYInc d, _ => formatLS_decodes (n := 39) rfl rfl d _
  | .ldYDec d, _ => formatLS_decodes (n := 40) rfl rfl d _
  | .lddY d q, _ => formatDisp_decodes (n := 41) (f := fun d q => if q = 0 then .ldY d else .lddY d q) rfl rfl d q _
  | .ldZ d, _ => formatDisp_decodes (n := 44) (f := fun d q => if q = 0 then .ldZ d else .lddZ d q) rfl rfl d 0 _
  | .ldZInc d, _ => formatLS_decodes (n := 42) rfl rfl d _
  | .ldZDec d, _ => formatLS_decodes (n := 43) rfl rfl d _
  | .lddZ d q, _ => formatDisp_decodes (n := 44) (f := fun d q => if q = 0 then .ldZ d else .lddZ d q) rfl rfl d q _
  | .sts _ r, _ => formatLS32_decodes (n := 45) (f := fun r k => .sts k r) rfl rfl r _
  | .stX r, _ => formatLS_decodes (n := 46) rfl rfl r _
  | .stXInc r, _ => formatLS_decodes (n := 47) rfl rfl r _
  | .stXDec r, _ => formatLS_decodes (n := 48) rfl rfl r _
  | .stY r, _ => formatDisp_decodes (n := 51) (f := fun d q => if q = 0 then .stY d else .stdY q d) rfl rfl r 0 _
  | .stYInc r, _ => formatLS_decodes (n := 49) rfl rfl r _
  | .stYDec r, _ => formatLS_decodes (n := 50) rfl rfl r _
  | .stdY q r, _ => formatDisp_decodes (n := 51) (f := fun d q => if q = 0 then .stY d else .stdY q d) rfl rfl r q _
  | .stZ r, _ => formatDisp_decodes (n := 54) (f := fun d q => if q = 0 then .stZ d else .stdZ q d) rfl rfl r 0 _
  | .stZInc r, _ => formatLS_decodes (n := 52) rfl rfl r _
  | .stZDec r, _ => formatLS_decodes (n := 53) rfl rfl r _
  | .stdZ q r, _ => formatDisp_decodes (n := 54) (f := fun d q => if q = 0 then .stZ d else .stdZ q d) rfl rfl r q _
  | .lpm, _ => constant_decodes (n := 55) rfl _
  | .inp d a, _ => formatIO_decodes (n := 56) (f := fun a d => .inp d a) rfl rfl a d _
  | .out a r, _ => formatIO_decodes (n := 57) rfl rfl a r _
  | .push r, _ => formatLS_decodes (n := 58) rfl rfl r _
  | .pop d, _ => formatLS_decodes (n := 59) rfl rfl d _
  | .lsl d, _ => formatRR_decodes (n := 0) rfl rfl d d _
  | .lsr d, _ => formatR1_decodes (n := 60) rfl rfl d _
  | .rol d, _ => formatRR_decodes (n := 1) rfl rfl d d _
  | .ror d, _ => formatR1_decodes (n := 61) rfl rfl d _
  | .asr d, _ => formatR1_decodes (n := 62) rfl rfl d _
  | .swap d, _ => formatR1_decodes (n := 63) rfl rfl d _
  | .sbi a b, _ => formatIOB_decodes (n := 64) rfl rfl a b _
  | .cbi a b, _ => formatIOB_decodes (n := 65) rfl rfl a b _
  | .bst r b, _ => formatRB_decodes (n := 66) rfl rfl r b _
  | .bld d b, _ => formatRB_decodes (n := 67) rfl rfl d b _
  | .bset n, _ => formatSF_decodes (m := 68) rfl rfl n _
  | .bclr n, _ => formatSF_decodes (m := 69) rfl rfl n _
  | .sec, _ => formatSF_decodes (m := 68) rfl rfl 0 _
  | .clc, _ => formatSF_decodes (m := 69) rfl rfl 0 _
  | .sen, _ => formatSF_decodes (m := 68) rfl rfl 2 _
  | .cln, _ => formatSF_decodes (m := 69) rfl rfl 2 _
  | .sez, _ => formatSF_decodes (m := 68) rfl rfl 1 _
  | .clz, _ => formatSF_decodes (m := 69) rfl rfl 1 _
  | .sei, _ => formatSF_decodes (m := 68) rfl rfl 7 _
  | .cli, _ => formatSF_decodes (m := 69) rfl rfl 7 _
  | .ses, _ => formatSF_decodes (m := 68) rfl rfl 4 _
  | .cls, _ => formatSF_decodes (m := 69) rfl rfl 4 _
  | .sev, _ => formatSF_decodes (m := 68) rfl rfl 3 _
  | .clv, _ => formatSF_decodes (m := 69) rfl rfl 3 _
  | .set, _ => formatSF_decodes (m := 68) rfl rfl 6 _
  | .clt, _ => formatSF_decodes (m := 69) rfl rfl 6 _
  | .seh, _ => formatSF_decodes (m := 68) rfl rfl 5 _
  | .clh, _ => formatSF_decodes (m := 69) rfl rfl 5 _
  | .brk, _ => constant_decodes (n := 70) rfl _
  | .nop, _ => constant_decodes (n := 71) rfl _
  | .sleep, _ => constant_decodes (n := 72) rfl _
  | .wdr, _ => constant_decodes (n := 73) rfl _

/-! ## The word that a row decodes is the word of what it decodes to -/

/-- `i` is what the first word `w0` and, where there is one, the second word `w1` stand for (R90, R91). -/
structure ReadFrom (w0 w1 : Word) (i : Instr) : Prop where
  wellFormed : i.wellFormed = true
  base : i.base = i
  word : encodeWord i = w0
  second : i.hasSecondWord = true → i.secondWord = w1

/-- What the row builds from a word of its own stands for that word. -/
def OpcodeRow.Faithful (row : OpcodeRow) : Prop :=
  ∀ w0 w1, row.matchesWord w0 = true → ReadFrom w0 w1 (row.build w0 w1)

theorem isUpperReg_fieldUpper (w : Word) : isUpperReg (fieldUpper w) = true :=
  decide_eq_true (Nat.le_add_right 16 _)

theorem isPairReg_fieldPair (w : Word) : isPairReg (fieldPair w) = true := by
  have key : ∀ x : BitVec 2, isPairReg ⟨24 + 2 * x.toNat, by omega⟩ = true := by decide
  exact key (w.extractLsb' 4 2)

/-- A row of LDD or STD reads LD or ST of the pointer where the displacement is 0 (R89, R90). -/
theorem ReadFrom.ite_zero {w0 w1 : Word} {q : BitVec 6} {i j : Instr} (hi : q = 0 → ReadFrom w0 w1 i)
    (hj : q ≠ 0 → ReadFrom w0 w1 j) : ReadFrom w0 w1 (if q = 0 then i else j) := by
  split
  · exact hi ‹_›
  · exact hj ‹_›

theorem formatDisp_zero_of_mask {w : Word} {s y : BitVec 1} (h : formatDisp s 0 y 0 = w &&& 0xD208)
    (hq : fieldQ w = 0) : formatDisp s (fieldD w) y 0 = w := by
  conv_rhs => rw [← formatDisp_fields h, hq]

theorem arithRows_faithful : ∀ row ∈ arithRows, row.Faithful := by
  simp only [arithRows, List.forall_mem_cons]
  exact ⟨
    fun _ _ h => ⟨rfl, rfl, formatRR_fields (eq_of_beq h).symm, nofun⟩,
    fun _ _ h => ⟨rfl, rfl, formatRR_fields (eq_of_beq h).symm, nofun⟩,
    fun _ _ h => ⟨isPairReg_fieldPair _, rfl, formatIW_fields (eq_of_beq h).symm, nofun⟩,
    fun _ _ h => ⟨rfl, rfl, formatRR_fields (eq_of_beq h).symm, nofun⟩,
    fun _ _ h => ⟨isUpperReg_fieldUpper _, rfl, formatRI_fields (eq_of_beq h).symm, nofun⟩,
    fun _ _ h => ⟨rfl, rfl, formatRR_fields (eq_of_beq h).symm, nofun⟩,
    fun _ _ h => ⟨isUpperReg_fieldUpper _, rfl, formatRI_fields (eq_of_beq h).symm, nofun⟩,
    fun _ _ h => ⟨isPairReg_fieldPair _, rfl, formatIW_fields (eq_of_beq h).symm, nofun⟩,
    fun _ _ h => ⟨rfl, rfl, formatRR_fields (eq_of_beq h).symm, nofun⟩,
    fun _ _ h => ⟨isUpperReg_fieldUpper _, rfl, formatRI_fields (eq_of_beq h).symm, nofun⟩,
    fun _ _ h => ⟨rfl, rfl, formatRR_fields (eq_of_beq h).symm, nofun⟩,
    fun _ _ h => ⟨isUpperReg_fieldUpper _, rfl, formatRI_fields (eq_of_beq h).symm, nofun⟩,
    fun _ _ h => ⟨rfl, rfl, formatRR_fields (eq_of_beq h).symm, nofun⟩,
    fun _ _ h => ⟨rfl, rfl, formatR1_fields (eq_of_beq h).symm, nofun⟩,
    fun _ _ h => ⟨rfl, rfl, formatR1_fields (eq_of_beq h).symm, nofun⟩,
    fun _ _ h => ⟨rfl, rfl, formatR1_fields (eq_of_beq h).symm, nofun⟩,
    fun _ _ h => ⟨rfl, rfl, formatR1_fields (eq_of_beq h).symm, nofun⟩,
    List.forall_mem_nil _⟩

theorem branchRows_faithful : ∀ row ∈ branchRows, row.Faithful := by
  simp only [branchRows, List.forall_mem_cons]
  exact ⟨
    fun _ _ h => ⟨rfl, rfl, formatRel_fields (eq_of_beq h).symm, nofun⟩,
    fun w _ h => ⟨rfl, rfl, (eq_of_beq h).symm.trans (BitVec.and_allOnes (x := w)), nofun⟩,
    fun _ _ h => ⟨rfl, rfl, formatRel_fields (eq_of_beq h).symm, nofun⟩,
    fun w _ h => ⟨rfl, rfl, (eq_of_beq h).symm.trans (BitVec.and_allOnes (x := w)), nofun⟩,
    fun w _ h => ⟨rfl, rfl, (eq_of_beq h).symm.trans (BitVec.and_allOnes (x := w)), nofun⟩,
    fun w _ h => ⟨rfl, rfl, (eq_of_beq h).symm.trans (BitVec.and_allOnes (x := w)), nofun⟩,
    fun _ _ h => ⟨rfl, rfl, formatRR_fields (eq_of_beq h).symm, nofun⟩,
    fun _ _ h => ⟨rfl, rfl, formatRR_fields (eq_of_beq h).symm, nofun⟩,
    fun _ _ h => ⟨rfl, rfl, formatRR_fields (eq_of_beq h).symm, nofun⟩,
    fun _ _ h => ⟨isUpperReg_fieldUpper _, rfl, formatRI_fields (eq_of_beq h).symm, nofun⟩,
    fun _ _ h => ⟨rfl, rfl, formatRB_fields (eq_of_beq h).symm, nofun⟩,
    fun _ _ h => ⟨rfl, rfl, formatRB_fields (eq_of_beq h).symm, nofun⟩,
    fun _ _ h => ⟨rfl, rfl, formatIOB_fields (eq_of_beq h).symm, nofun⟩,
    fun _ _ h => ⟨rfl, rfl, formatIOB_fields (eq_of_beq h).symm, nofun⟩,
    fun _ _ h => ⟨rfl, rfl, formatBR_fields (eq_of_beq h).symm, nofun⟩,
    fun _ _ h => ⟨rfl, rfl, formatBR_fields (eq_of_beq h).symm, nofun⟩,
    List.forall_mem_nil _⟩

theorem transferRows_faithful : ∀ row ∈ transferRows, row.Faithful := by
  simp only [transferRows, List.forall_mem_cons]
  exact ⟨
    fun _ _ h => ⟨rfl, rfl, formatRR_fields (eq_of_beq h).symm, nofun⟩,
    fun _ _ h => ⟨isUpperReg_fieldUpper _, rfl, formatRI_fields (eq_of_beq h).symm, nofun⟩,
    fun _ _ h => ⟨rfl, rfl, formatLS_fields (eq_of_beq h).symm, fun _ => rfl⟩,
    fun _ _ h => ⟨rfl, rfl, formatLS_fields (eq_of_beq h).symm, nofun⟩,
    fun _ _ h => ⟨rfl, rfl, formatLS_fields (eq_of_beq h).symm, nofun⟩,
    fun _ _ h => ⟨rfl, rfl, formatLS_fields (eq_of_beq h).symm, nofun⟩,
    fun _ _ h => ⟨rfl, rfl, formatLS_fields (eq_of_beq h).symm, nofun⟩,
    fun _ _ h => ⟨rfl, rfl, formatLS_fields (eq_of_beq h).symm, nofun⟩,
    fun _ _ h => .ite_zero
      (fun hq => ⟨rfl, rfl, formatDisp_zero_of_mask (eq_of_beq h).symm hq, nofun⟩)
      (fun hq => ⟨rfl, if_neg hq, formatDisp_fields (eq_of_beq h).symm, nofun⟩),
    fun _ _ h => ⟨rfl, rfl, formatLS_fields (eq_of_beq h).symm, nofun⟩,
    fun _ _ h => ⟨rfl, rfl, formatLS_fields (eq_of_beq h).symm, nofun⟩,
    fun _ _ h => .ite_zero
      (fun hq => ⟨rfl, rfl, formatDisp_zero_of_mask (eq_of_beq h).symm hq, nofun⟩)
      (fun hq => ⟨rfl, if_neg hq, formatDisp_fields (eq_of_beq h).symm, nofun⟩),
    fun _ _ h => ⟨rfl, rfl, formatLS_fields (eq_of_beq h).symm, fun _ => rfl⟩,
    fun _ _ h => ⟨rfl, rfl, formatLS_fields (eq_of_beq h).symm, nofun⟩,
    fun _ _ h => ⟨rfl, rfl, formatLS_fields (eq_of_beq h).symm, nofun⟩,
    fun _ _ h => ⟨rfl, rfl, formatLS_fields (eq_of_beq h).symm, nofun⟩,
    fun _ _ h => ⟨rfl, rfl, formatLS_fields (eq_of_beq h).symm, nofun⟩,
    fun _ _ h => ⟨rfl, rfl, formatLS_fields (eq_of_beq h).symm, nofun⟩,
    fun _ _ h => .ite_zero
      (fun hq => ⟨rfl, rfl, formatDisp_zero_of_mask (eq_of_beq h).symm hq, nofun⟩)
      (fun hq => ⟨rfl, if_neg hq, formatDisp_fields (eq_of_beq h).symm, nofun⟩),
    fun _ _ h => ⟨rfl, rfl, formatLS_fields (eq_of_beq h).symm, nofun⟩,
    fun _ _ h => ⟨rfl, rfl, formatLS_fields (eq_of_beq h).symm, nofun⟩,
    fun _ _ h => .ite_zero
      (fun hq => ⟨rfl, rfl, formatDisp_zero_of_mask (eq_of_beq h).symm hq, nofun⟩)
      (fun hq => ⟨rfl, if_neg hq, formatDisp_fields (eq_of_beq h).symm, nofun⟩),
    fun w _ h => ⟨rfl, rfl, (eq_of_beq h).symm.trans (BitVec.and_allOnes (x := w)), nofun⟩,
    fun _ _ h => ⟨rfl, rfl, formatIO_fields (eq_of_beq h).symm, nofun⟩,
    fun _ _ h => ⟨rfl, rfl, formatIO_fields (eq_of_beq h).symm, nofun⟩,
    fun _ _ h => ⟨rfl, rfl, formatLS_fields (eq_of_beq h).symm, nofun⟩,
    fun _ _ h => ⟨rfl, rfl, formatLS_fields (eq_of_beq h).symm, nofun⟩,
    List.forall_mem_nil _⟩

theorem bitRows_faithful : ∀ row ∈ bitRows, row.Faithful := by
  simp only [bitRows, List.forall_mem_cons]
  exact ⟨
    fun _ _ h => ⟨rfl, rfl, formatR1_fields (eq_of_beq h).symm, nofun⟩,
    fun _ _ h => ⟨rfl, rfl, formatR1_fields (eq_of_beq h).symm, nofun⟩,
    fun _ _ h => ⟨rfl, rfl, formatR1_fields (eq_of_beq h).symm, nofun⟩,
    fun _ _ h => ⟨rfl, rfl, formatR1_fields (eq_of_beq h).symm, nofun⟩,
    fun _ _ h => ⟨rfl, rfl, formatIOB_fields (eq_of_beq h).symm, nofun⟩,
    fun _ _ h => ⟨rfl, rfl, formatIOB_fields (eq_of_beq h).symm, nofun⟩,
    fun _ _ h => ⟨rfl, rfl, formatRB_fields (eq_of_beq h).symm, nofun⟩,
    fun _ _ h => ⟨rfl, rfl, formatRB_fields (eq_of_beq h).symm, nofun⟩,
    fun _ _ h => ⟨rfl, rfl, formatSF_fields (eq_of_beq h).symm, nofun⟩,
    fun _ _ h => ⟨rfl, rfl, formatSF_fields (eq_of_beq h).symm, nofun⟩,
    fun w _ h => ⟨rfl, rfl, (eq_of_beq h).symm.trans (BitVec.and_allOnes (x := w)), nofun⟩,
    fun w _ h => ⟨rfl, rfl, (eq_of_beq h).symm.trans (BitVec.and_allOnes (x := w)), nofun⟩,
    fun w _ h => ⟨rfl, rfl, (eq_of_beq h).symm.trans (BitVec.and_allOnes (x := w)), nofun⟩,
    fun w _ h => ⟨rfl, rfl, (eq_of_beq h).symm.trans (BitVec.and_allOnes (x := w)), nofun⟩,
    List.forall_mem_nil _⟩

theorem opcodeRows_faithful : ∀ row ∈ opcodeRows, row.Faithful := by
  simp only [opcodeRows, List.forall_mem_append]
  exact ⟨⟨⟨arithRows_faithful, branchRows_faithful⟩, transferRows_faithful⟩, bitRows_faithful⟩

/-- R90: what a word decodes to stands for that word. -/
theorem readFrom_of_decodeWord {w0 w1 : Word} {i : Instr} (h : decodeWord w0 w1 = some i) : ReadFrom w0 w1 i := by
  obtain ⟨row, hrow, hw, rfl⟩ := decodeWord_some h
  exact opcodeRows_faithful row hrow w0 w1 hw

/-! ## The byte level (R65) -/

theorem wordOfBytes_bytes (w : Word) : wordOfBytes (lowByte w) (highByte w) = w :=
  Machine.wordOfBytes_low_high w

theorem bytesOfWord_wordOfBytes (l h : Byte) : bytesOfWord (wordOfBytes l h) = [l, h] := by
  rw [bytesOfWord, Machine.lowByte_wordOfBytes, Machine.highByte_wordOfBytes]

/-- The decoder on the bytes of the words it is to read. -/
theorem decode_words {w0 w1 : Word} {i : Instr} (h : decodeWord w0 (if isTwoWord w0 then w1 else 0) = some i)
    (rest : List Byte) :
    decode ((if isTwoWord w0 then [w0, w1] else [w0]).flatMap bytesOfWord ++ rest) = .ok (i, rest) := by
  cases h2 : isTwoWord w0 <;> rw [h2] at h <;>
    simp_all [decode, bytesOfWord, wordOfBytes_bytes]

/-- What the decoder answers, it read from the words of the bytes. -/
theorem decode_ok {bs rest : List Byte} {i : Instr} (h : decode bs = .ok (i, rest)) :
    ∃ w0 w1, decodeWord w0 (if isTwoWord w0 then w1 else 0) = some i ∧
      bs = (if isTwoWord w0 then [w0, w1] else [w0]).flatMap bytesOfWord ++ rest := by
  unfold decode at h
  split at h
  · rename_i b0 b1 tail
    cases h2 : isTwoWord (wordOfBytes b0 b1) <;> simp only [h2, Bool.false_eq_true, if_false, if_true] at h
    · split at h
      · cases h
        exact ⟨wordOfBytes b0 b1, 0, by simpa [h2], by simp [h2, bytesOfWord_wordOfBytes]⟩
      · cases h
    · split at h
      · rename_i b2 b3 _
        split at h
        · cases h
          exact ⟨wordOfBytes b0 b1, wordOfBytes b2 b3, by simpa [h2], by simp [h2, bytesOfWord_wordOfBytes]⟩
        · cases h
      · cases h
  · cases h

/-- The second word the decoder takes is the instruction's own. -/
theorem secondWord_eq_of_hasSecondWord (i : Instr) : (if i.hasSecondWord then i.secondWord else 0) = i.secondWord := by
  cases i <;> rfl

theorem encode_eq_words (i : Instr) :
    encode i = if isTwoWord (encodeWord i) then [encodeWord i, i.secondWord] else [encodeWord i] := by
  rw [isTwoWord_encodeWord, encode_eq]

/-- Settles O1: the row of the base instruction decodes the words, and no other row matches them. -/
theorem decodeOfEncodeIsBase : Obligations.DecodeOfEncodeIsBase := by
  intro i rest hi
  rw [encode_eq_words]
  refine decode_words ?_ rest
  rw [isTwoWord_encodeWord, secondWord_eq_of_hasSecondWord]
  exact decodeWord_encodeWord i hi

/-- Settles O2: the row that matched stands for the words it read. -/
theorem encodeOfDecodeIsWords : Obligations.EncodeOfDecodeIsWords := by
  intro bs rest i h
  obtain ⟨w0, w1, hd, rfl⟩ := decode_ok h
  obtain ⟨hwf, hbase, rfl, hsecond⟩ := readFrom_of_decodeWord hd
  refine ⟨hwf, hbase, ?_⟩
  rw [encode_eq_words]
  rw [isTwoWord_encodeWord] at hsecond ⊢
  cases h2 : i.hasSecondWord
  · rfl
  · have hw1 : i.secondWord = w1 := by simpa [h2] using hsecond h2
    rw [hw1]

/-- Settles O4: LDS and STS are the instructions with a second word, and the first word tells. -/
theorem firstWordTellsTheLength : Obligations.FirstWordTellsTheLength := by
  intro i _
  have hlen : (encode i).length = if i.hasSecondWord then 2 else 1 := by
    rw [encode_eq]
    split <;> rfl
  have hword : (encodeWord i &&& 0xFC0F = 0x9000) ↔ i.hasSecondWord = true := by
    rw [← isTwoWord_encodeWord]
    exact beq_iff_eq.symm
  have hform : i.hasSecondWord = true ↔ (∃ d k, i = .lds d k) ∨ (∃ k r, i = .sts k r) := by
    cases i <;> simp [Instr.hasSecondWord]
  rw [hlen, hword, ← hform]
  cases i.hasSecondWord <;> simp

/-- Settles O5: each word is decoded by computation. -/
theorem sampleWordsDecode : Obligations.SampleWordsDecode := by
  unfold Obligations.SampleWordsDecode
  decide

end Sys2Proof
end

section
/-! # What every instruction keeps: configuration, program memory, the invariant, and the flags its row does not list -/

namespace Sys2Proof.Machine

/-- What an instruction other than BREAK and SLEEP does to a state: it keeps the configuration, program memory and the
invariant, neither holds nor stops the core, and, under a configuration that obeys its constraints, changes no flag but
those of `fs`. -/
structure Effect (fs : List Flag) (s t : State) : Prop extends Moves s t where
  flags : s.cfg.WF → ∀ f, f ∉ fs → t.flag f = s.flag f
  sleeping : t.sleeping = s.sleeping
  stopped : t.stopped = s.stopped

variable {fs : List Flag} {s t u : State}

theorem Effect.refl (fs : List Flag) (s : State) : Effect fs s s := ⟨(Keeps.refl s).moves, fun _ _ _ => rfl, rfl, rfl⟩

theorem Effect.trans (h : Effect fs s t) (k : Effect fs t u) : Effect fs s u where
  toMoves := h.toMoves.trans k.toMoves
  flags hwf f hf := (k.flags (h.cfg ▸ hwf) f hf).trans (h.flags hwf f hf)
  sleeping := k.sleeping.trans h.sleeping
  stopped := k.stopped.trans h.stopped

/-- The effect of what is known by its frame. -/
theorem Effect.of_touches {w : Touched} (hm : Moves s t) (hw : OnlyTouches w s t) (hf : ∀ f ∈ w.flags, f ∈ fs)
    (hsl : w.sleeping = false) (hst : w.stopped = false) : Effect fs s t where
  toMoves := hm
  flags _ f hn := hw.flags f fun hin => hn (hf f hin)
  sleeping := hw.sleeping hsl
  stopped := hw.stopped hst

theorem Effect.next {r : State} (he : Effect fs s r) (h : (.next r : Result) = .next t) : Effect fs s t :=
  Host.Outcome.next.inj h ▸ he

/-! ## The program counter, registers and SREG -/

theorem effect_pc (s : State) (z : Int) : Effect fs s { s with pc := truncPc s.cfg z } :=
  ⟨moves_pc s z, fun _ _ _ => rfl, rfl, rfl⟩

theorem advance_effect (s : State) (n : Nat) : Effect fs s (s.advance n) := effect_pc s _

theorem Effect.advance (h : Effect fs s t) (n : Nat) : Effect fs s (t.advance n) := h.trans (advance_effect t n)

theorem branchIf_effect (c : Bool) (k : BitVec 7) (s : State) : Effect fs s (branchIf c k s) := by
  cases c
  · exact advance_effect s 1
  · exact effect_pc s _

theorem skipIf_effect {c : Bool} (h : skipIf c s = .ok t) : Effect fs s t := by
  obtain ⟨n, rfl⟩ := skipIf_ok h
  exact advance_effect s n

theorem setReg_effect (s : State) (d : Reg) (v : Byte) : Effect fs s (s.setReg d v) :=
  ⟨(setReg_keeps s d v).moves, fun _ _ _ => rfl, rfl, rfl⟩

theorem setPair_effect (s : State) (d : Reg) (v : Word) : Effect fs s (s.setPair d v) :=
  ⟨(setPair_keeps s d v).moves, fun _ _ _ => rfl, rfl, rfl⟩

theorem withSreg_effect (s : State) {x : Byte} (hx : ∀ f, f ∉ fs → getFlag x f = getFlag s.sreg f) :
    Effect fs s { s with sreg := x } :=
  ⟨Keeps.moves (.of_eq rfl rfl rfl rfl rfl rfl rfl), fun _ => hx, rfl, rfl⟩

theorem writeResult_effect (s : State) (d : Reg) (r : Byte) {x : Byte}
    (hx : ∀ f, f ∉ fs → getFlag x f = getFlag s.sreg f) : Effect fs s (s.writeResult d r x) :=
  ((setReg_effect s d r).trans (withSreg_effect (s.setReg d r) hx)).advance 1

theorem writePairResult_effect (s : State) (d : Reg) (r : Word) {x : Byte}
    (hx : ∀ f, f ∉ fs → getFlag x f = getFlag s.sreg f) : Effect fs s (s.writePairResult d r x) :=
  ((setPair_effect s d r).trans (withSreg_effect (s.setPair d r) hx)).advance 1

theorem writeFlags_effect (s : State) {x : Byte} (hx : ∀ f, f ∉ fs → getFlag x f = getFlag s.sreg f) :
    Effect fs s (s.writeFlags x) := (withSreg_effect s hx).advance 1

/-! Which flags the writers of SREG leave alone. -/

theorem getFlag_putHCNVZS_of_subset (x : Byte) (a : ArithFlags) (hfs : ∀ f ∈ sixFlags, f ∈ fs) (f : Flag)
    (hf : f ∉ fs) : getFlag (putHCNVZS x a) f = getFlag x f :=
  getFlag_putHCNVZS_of_notMem x a fun h => hf (hfs f h)

theorem getFlag_putCNVZS_of_subset (x : Byte) (a : ArithFlags) (hfs : ∀ f ∈ fiveFlags, f ∈ fs) (f : Flag)
    (hf : f ∉ fs) : getFlag (putCNVZS x a) f = getFlag x f :=
  getFlag_putCNVZS_of_notMem x a fun h => hf (hfs f h)

theorem getFlag_putNVZS_of_subset (x : Byte) (a : ArithFlags) (hfs : ∀ f ∈ logicalFlags, f ∈ fs) (f : Flag)
    (hf : f ∉ fs) : getFlag (putNVZS x a) f = getFlag x f :=
  getFlag_putNVZS_of_notMem x a fun h => hf (hfs f h)

/-- R251: the flags that a right shift writes, by `SHIFT_WRITES_S`. -/
theorem getFlag_putShiftRight_of_notMem (w : Bool) (x : Byte) (a : ArithFlags) (f : Flag)
    (hf : f ∉ if w then [Flag.z, .c, .n, .v, .s] else [.z, .c, .n, .v]) :
    getFlag (putShiftRight w x a) f = getFlag x f := by
  cases w <;> cases f <;> simp_all

theorem getFlag_putFlag_of_mem (x : Byte) {g : Flag} (b : Bool) (hg : g ∈ fs) (f : Flag) (hf : f ∉ fs) :
    getFlag (putFlag x g b) f = getFlag x f := by
  rw [getFlag_putFlag, if_neg (fun e : f = g => hf (e ▸ hg))]

theorem mem_flagsOfBit (n : BitNum) (f : Flag) : f ∈ allFlags.filter (·.bit == n) ↔ f.bit = n := by
  cases f <;> simp [allFlags]

theorem getFlag_putBit_of_notMem (x : Byte) (n : BitNum) (b : Bool) (f : Flag)
    (hf : f ∉ allFlags.filter (·.bit == n)) : getFlag (putBit x n b) f = getFlag x f := by
  rw [mem_flagsOfBit] at hf
  simp [getFlag, hf]

theorem setSregBit_effect (n : BitNum) (s : State) (hfs : ∀ f ∈ allFlags.filter (·.bit == n), f ∈ fs) :
    Effect fs s (setSregBit n s) :=
  (writeFlags_effect s fun f hf => getFlag_putBit_of_notMem s.sreg n true f fun h => hf (hfs f h)).trans
    ⟨Keeps.moves (.of_eq rfl rfl rfl rfl rfl rfl rfl), fun _ _ _ => rfl, rfl, rfl⟩

theorem clearSregBit_effect (n : BitNum) (s : State) (hfs : ∀ f ∈ allFlags.filter (·.bit == n), f ∈ fs) :
    Effect fs s (clearSregBit n s) :=
  writeFlags_effect s fun f hf => getFlag_putBit_of_notMem s.sreg n false f fun h => hf (hfs f h)

/-! ## Memory, I/O and the stack -/

theorem mem_allFlags (f : Flag) : f ∈ allFlags := by cases f <;> decide

theorem memRead_effect {a : Word} {v : Byte} (h : memRead a s = .ok (v, t)) : Effect fs s t :=
  .of_touches (memRead_keeps h).moves (memRead_touches h) (by simp [loadTouches]) rfl rfl

theorem ioAnswer_effect (a : IoAddr) (s : State) : Effect fs s (ioAnswer a s).2 :=
  .of_touches (ioAnswer_keeps a s).moves (ioAnswer_touches a s) (by simp [ioReadTouches]) rfl rfl

theorem ioRead_effect {a : IoAddr} {v : Byte} (h : ioRead a s = .ok (v, t)) : Effect fs s t := by
  obtain rfl : t = (ioAnswer a s).2 := congrArg Prod.snd (ioRead_ok_iff.1 h).2
  exact ioAnswer_effect a s

theorem ioWriteTouches_holds_nothing (cfg : Config) (a : IoAddr) :
    (ioWriteTouches cfg a).sleeping = false ∧ (ioWriteTouches cfg a).stopped = false := by
  unfold ioWriteTouches
  cases ioPlace cfg a <;> cases cfg.ioDevice <;> exact ⟨rfl, rfl⟩

theorem storeTouches_holds_nothing (cfg : Config) (a : Word) :
    (storeTouches cfg a).sleeping = false ∧ (storeTouches cfg a).stopped = false := by
  unfold storeTouches
  cases route cfg a with
  | io p => exact ioWriteTouches_holds_nothing cfg p
  | _ => exact ⟨rfl, rfl⟩

theorem ioStore_effect (a : IoAddr) (v : Byte) (s : State) : Effect allFlags s (ioStore a v s) :=
  have ⟨hsl, hst⟩ := ioWriteTouches_holds_nothing s.cfg a
  .of_touches (ioStore_keeps a v s).moves (ioStore_touches a v s) (fun f _ => mem_allFlags f) hsl hst

theorem ioWrite_effect {a : IoAddr} {v : Byte} (h : ioWrite a v s = .ok t) : Effect allFlags s t := by
  obtain ⟨-, rfl⟩ := ioWrite_ok_iff.1 h
  exact ioStore_effect a v s

theorem memWrite_effect {a : Word} {v : Byte} (h : memWrite a v s = .ok t) : Effect allFlags s t :=
  have ⟨hsl, hst⟩ := storeTouches_holds_nothing s.cfg a
  .of_touches (memWrite_keeps h).moves (memWrite_touches h) (fun f _ => mem_allFlags f) hsl hst

/-- R57: under a configuration that obeys its constraints SBI and CBI reach a device, never SREG. -/
theorem flag_ioBitStore (hwf : s.cfg.WF) (a : IoLow) (b : BitNum) (v : Bool) (f : Flag) :
    (ioBitStore a b v s).flag f = s.flag f := by
  have hp := ioPlace_low hwf a
  unfold ioBitStore ioStore ioAnswer
  cases hd : s.cfg.ioDevice <;> simp [hp, hd] <;> rfl

theorem ioBitWrite_effect {a : IoLow} {b : BitNum} {v : Bool} (h : ioBitWrite a b v s = .ok t) : Effect fs s t := by
  have hm := (ioBitWrite_keeps h).moves
  obtain ⟨-, rfl⟩ := ioBitWrite_ok_iff.1 h
  have held : Effect allFlags s (ioBitStore a b v s) := by
    unfold ioBitStore
    split
    · exact ⟨Keeps.moves (.of_eq rfl rfl rfl rfl rfl rfl rfl), fun _ _ _ => rfl, rfl, rfl⟩
    · exact (ioAnswer_effect _ s).trans (ioStore_effect _ _ _)
  exact ⟨hm, fun hwf f _ => flag_ioBitStore hwf a b v f, held.sleeping, held.stopped⟩

theorem loadFrom_effect {a : Word} {d : Reg} (h : loadFrom a d s = .ok t) : Effect fs s t := by
  obtain ⟨v, u, hm, rfl⟩ := loadFrom_ok_iff.1 h
  exact (memRead_effect hm).trans (setReg_effect u d v)

theorem loadMoving_effect {m : PointerMove} {p : Pointer} {d : Reg} {w0 : Word} (h : loadMoving m p d w0 s = .ok t) :
    Effect fs s t := by
  obtain ⟨-, u, hl, rfl⟩ := loadMoving_ok_iff.1 h
  exact (loadFrom_effect hl).trans (setPair_effect u p.low _)

theorem storeMoving_effect {m : PointerMove} {p : Pointer} {r : Reg} {w0 : Word}
    (h : storeMoving m p r w0 s = .ok t) : Effect allFlags s t := by
  obtain ⟨-, u, hl, rfl⟩ := storeMoving_ok_iff.1 h
  exact (memWrite_effect hl).trans (setPair_effect u p.low _)

/-- What a push answers: the store, and then SP moved down (R61). -/
theorem push_ok_iff {w0 : Option Word} {v : Byte} :
    push w0 v s = .ok t ↔
      isSpLocation s.cfg s.sp = false ∧
      ∃ u, memWrite s.sp v s = .ok u ∧ t = { u with sp := moveSp u.cfg u.sp (-1) } := by
  unfold push
  cases isSpLocation s.cfg s.sp <;> cases memWrite s.sp v s <;> simp [eq_comm]

theorem push_effect {w0 : Option Word} {v : Byte} (h : push w0 v s = .ok t) : Effect allFlags s t := by
  have hm := (push_keeps h).moves
  obtain ⟨-, u, hw, rfl⟩ := push_ok_iff.1 h
  have hu := memWrite_effect hw
  exact ⟨hm, fun _ f hf => absurd (mem_allFlags f) hf, hu.sleeping, hu.stopped⟩

theorem pushAll_effect {w0 : Option Word} {vs : List Byte} (h : pushAll w0 vs s = .ok t) : Effect allFlags s t := by
  induction vs generalizing s with
  | nil => cases h; exact .refl _ _
  | cons v rest ih =>
    simp only [pushAll] at h
    split at h
    · rename_i s1 hp
      exact (push_effect hp).trans (ih h)
    · cases h

theorem pushPc_effect {w0 : Option Word} {w : PcWord} (h : pushPc w0 w s = .ok t) : Effect allFlags s t := by
  unfold pushPc at h
  split at h
  · cases h
  · exact pushAll_effect h

theorem callTo_effect {w0 : Word} {z : Int} (h : callTo w0 (truncPc s.cfg z) s = .ok t) : Effect allFlags s t := by
  obtain ⟨u, hp, rfl⟩ := callTo_ok_iff.1 h
  have hu := pushPc_effect hp
  exact ⟨(pushPc_keeps hp).moves_pc z, hu.flags, hu.sleeping, hu.stopped⟩

theorem pop_effect {v : Byte} (h : pop s = .ok (v, t)) : Effect fs s t := by
  have hm := (pop_keeps h).moves
  have hr : Effect fs { s with sp := moveSp s.cfg s.sp 1 } t := memRead_effect h
  exact ⟨hm, hr.flags, hr.sleeping, hr.stopped⟩

theorem popAll_effect {n acc m : Nat} (h : popAll n acc s = .ok (m, t)) : Effect fs s t := by
  induction n generalizing acc s with
  | zero => cases h; exact .refl _ _
  | succ n ih =>
    simp only [popAll] at h
    split at h
    · rename_i hp
      exact (pop_effect hp).trans (ih h)
    · cases h

/-- What a pop of the program counter answers (R64). -/
theorem popPc_ok_iff {w : PcWord} :
    popPc s = .ok (w, t) ↔ ∃ n : Nat, popAll (pcBytes s.cfg) 0 s = .ok (n, t) ∧ w = truncPc s.cfg n := by
  unfold popPc
  cases popAll (pcBytes s.cfg) 0 s with
  | error f => simp
  | ok r =>
    obtain ⟨n, u⟩ := r
    simp only [Except.ok.injEq, Prod.mk.injEq]
    constructor
    · rintro ⟨rfl, rfl⟩; exact ⟨n, ⟨rfl, rfl⟩, rfl⟩
    · rintro ⟨_, ⟨rfl, rfl⟩, rfl⟩; exact ⟨rfl, rfl⟩

theorem returnFromCall_effect (h : returnFromCall s = .ok t) : Effect fs s t := by
  have hm := returnFromCall_moves h
  obtain ⟨w, u, hp, rfl⟩ := returnFromCall_ok_iff.1 h
  obtain ⟨n, ha, -⟩ := popPc_ok_iff.1 hp
  have hu : Effect fs s u := popAll_effect ha
  exact ⟨hm, hu.flags, hu.sleeping, hu.stopped⟩

theorem returnFromInterrupt_effect (hi : Flag.i ∈ fs) (h : returnFromInterrupt s = .ok t) : Effect fs s t := by
  obtain ⟨u, hr, rfl⟩ := returnFromInterrupt_ok_iff.1 h
  exact (returnFromCall_effect hr).trans
    ⟨Keeps.moves (.of_eq rfl rfl rfl rfl rfl rfl rfl),
      fun _ f hf => getFlag_putFlag_of_mem u.sreg true hi f hf, rfl, rfl⟩

/-! ## Every instruction -/

/-- The flags an instruction may change: all, where it writes a byte that may be SREG (R28), else those its row
lists. -/
def flagsTouched (cfg : Config) (i : Instr) : List Flag := if writesData i then allFlags else flagsWritten cfg i

theorem concludeAfter_effect {n : Nat} {e : Except Fault State} (he : ∀ u, e = .ok u → Effect fs s u)
    (h : concludeAfter n e = .next t) : Effect fs s t := by
  obtain ⟨u, hu, rfl⟩ := concludeAfter_eq_next.1 h
  exact (he u hu).advance n

theorem conclude_effect {e : Except Fault State} (he : ∀ u, e = .ok u → Effect fs s u)
    (h : conclude e = .next t) : Effect fs s t := he t (conclude_eq_next.1 h)

theorem skipOnIo_effect {a : IoAddr} {c : Byte → Bool}
    (h : (match ioRead a s with
      | .ok (v, s1) => conclude (skipIf (c v) s1)
      | .error f => .fault f) = .next t) : Effect fs s t := by
  split at h
  · rename_i v s1 hr
    exact (ioRead_effect hr).trans (skipIf_effect (conclude_eq_next.1 h))
  · cases h

/-- The rows of LSL and ROL list the six flags in an order of their own. -/
theorem leftShiftFlags : ∀ f ∈ sixFlags, f ∈ [Flag.z, .c, .n, .v, .h, .s] := by decide

/-- R27, R36: what every instruction but BREAK and SLEEP does. -/
theorem exec_effect {i : Instr} (hbrk : i ≠ .brk) (hsleep : i ≠ .sleep) (h : exec i s = .next t) :
    Effect (flagsTouched s.cfg i) s t := by
  cases i with
  | add | adc | sub | subi | sbc | sbci | neg =>
    exact (writeResult_effect s _ _ (getFlag_putHCNVZS_of_subset _ _ fun f hf => hf)).next h
  | lsl | rol => exact (writeResult_effect s _ _ (getFlag_putHCNVZS_of_subset _ _ leftShiftFlags)).next h
  | and | andi | or | ori | eor | sbr | cbr | tst | clr | inc | dec =>
    exact (writeResult_effect s _ _ (getFlag_putNVZS_of_subset _ _ fun f hf => hf)).next h
  | com => exact (writeResult_effect s _ _ (getFlag_putCNVZS_of_subset _ _ fun f hf => hf)).next h
  | lsr | ror | asr => exact (writeResult_effect s _ _ (getFlag_putShiftRight_of_notMem _ _ _)).next h
  | adiw | sbiw => exact (writePairResult_effect s _ _ (getFlag_putCNVZS_of_subset _ _ fun f hf => hf)).next h
  | cp | cpc | cpi => exact (writeFlags_effect s (getFlag_putHCNVZS_of_subset _ _ fun f hf => hf)).next h
  | bst => exact (writeFlags_effect s (getFlag_putFlag_of_mem _ _ (.head _))).next h
  | bset | sec | sez | sen | sev | ses | seh | set | sei => exact (setSregBit_effect _ s fun f hf => hf).next h
  | bclr | clc | clz | cln | clv | cls | clh | clt | cli => exact (clearSregBit_effect _ s fun f hf => hf).next h
  | ser | mov | ldi | swap | bld => exact ((setReg_effect s _ _).advance 1).next h
  | rjmp | ijmp => exact (effect_pc s _).next h
  | brbs | brbc | breq | brne | brcs | brcc | brsh | brlo | brmi | brpl | brge | brlt | brhs | brhc | brts | brtc
  | brvs | brvc | brie | brid => exact (branchIf_effect _ _ s).next h
  | cpse | sbrc | sbrs => exact conclude_effect (fun _ => skipIf_effect) h
  | sbic a b => exact skipOnIo_effect (c := fun v => !getBit v b) h
  | sbis a b => exact skipOnIo_effect (c := fun v => getBit v b) h
  | rcall | icall => exact conclude_effect (fun _ => callTo_effect) h
  | ret => exact conclude_effect (fun _ => returnFromCall_effect) h
  | reti => exact conclude_effect (fun _ => returnFromInterrupt_effect (.head _)) h
  | lds | ldX | ldY | ldZ | lddY | lddZ => exact concludeAfter_effect (fun _ => loadFrom_effect) h
  | ldXInc | ldXDec | ldYInc | ldYDec | ldZInc | ldZDec => exact concludeAfter_effect (fun _ => loadMoving_effect) h
  | sts | stX | stY | stZ | stdY | stdZ => exact concludeAfter_effect (fun _ => memWrite_effect) h
  | stXInc | stXDec | stYInc | stYDec | stZInc | stZDec =>
    exact concludeAfter_effect (fun _ => storeMoving_effect) h
  | lpm =>
    simp only [exec, execLpm] at h
    split at h
    · exact ((setReg_effect s _ _).advance 1).next h
    · cases h
  | inp =>
    simp only [exec, execInp] at h
    split at h
    · rename_i v s1 hr
      exact (((ioRead_effect hr).trans (setReg_effect s1 _ v)).advance 1).next h
    · cases h
  | out => exact concludeAfter_effect (fun _ => ioWrite_effect) h
  | push => exact concludeAfter_effect (fun _ => push_effect) h
  | pop =>
    simp only [exec, execPop] at h
    split at h
    · rename_i v s1 hp
      exact (((pop_effect hp).trans (setReg_effect s1 _ v)).advance 1).next h
    · cases h
  | sbi | cbi => exact concludeAfter_effect (fun _ => ioBitWrite_effect) h
  | brk => exact absurd rfl hbrk
  | sleep => exact absurd rfl hsleep
  | nop => exact (advance_effect s 1).next h
  | wdr =>
    have emit : Effect (flagsTouched s.cfg .wdr) s (s.emit .wdr) :=
      ⟨Keeps.moves (.of_eq rfl rfl rfl rfl rfl rfl rfl), fun _ _ _ => rfl, rfl, rfl⟩
    exact (emit.advance 1).next h

end Sys2Proof.Machine
end

section
/-! # What every step keeps (spec/10_state.md, spec/60_exceptions.md R325) -/

namespace Sys2Proof.Machine

variable {s t : State}

/-! ## BREAK and SLEEP (R290, R292) -/

theorem exec_brk_next (h : exec .brk s = .next t) :
    t = s.advance 1 ∨ (s.cfg.breakMode = .stop ∧ t = { s with stopped := true }.advance 1) := by
  simp only [exec, execBrk] at h
  split at h
  · cases h
  · exact .inl (Host.Outcome.next.inj h).symm
  · exact .inr ⟨‹_›, (Host.Outcome.next.inj h).symm⟩

theorem exec_sleep_next (h : exec .sleep s = .next t) :
    t = s.advance 1 ∨ (s.cfg.sleepMode = .hold ∧ t = { s with sleeping := true }.advance 1) := by
  simp only [exec, execSleep] at h
  split at h
  · exact .inl (Host.Outcome.next.inj h).symm
  · exact .inr ⟨‹_›, (Host.Outcome.next.inj h).symm⟩

theorem stop_moves (hb : s.cfg.breakMode = .stop) : Moves s { s with stopped := true } :=
  ⟨rfl, rfl, fun hi => { hi with stopsByStop := fun _ => hb }⟩

theorem sleep_moves (hs : s.cfg.sleepMode = .hold) : Moves s { s with sleeping := true } :=
  ⟨rfl, rfl, fun hi => { hi with sleepsByHold := fun _ => hs }⟩

/-! ## Every instruction -/

theorem exec_moves {i : Instr} (h : exec i s = .next t) : Moves s t := by
  by_cases hbrk : i = .brk
  · subst hbrk
    obtain rfl | ⟨hb, rfl⟩ := exec_brk_next h
    · exact advance_moves s 1
    · exact (stop_moves hb).trans (advance_moves _ 1)
  by_cases hsleep : i = .sleep
  · subst hsleep
    obtain rfl | ⟨hs, rfl⟩ := exec_sleep_next h
    · exact advance_moves s 1
    · exact (sleep_moves hs).trans (advance_moves _ 1)
  · exact (exec_effect hbrk hsleep h).toMoves

/-- R292: only SLEEP under `hold` puts the core to sleep, and no instruction wakes it. -/
theorem exec_sleeping {i : Instr} (h : exec i s = .next t) :
    t.sleeping = s.sleeping ∨ (t.sleeping = true ∧ i = .sleep ∧ s.cfg.sleepMode = .hold) := by
  by_cases hbrk : i = .brk
  · subst hbrk
    obtain rfl | ⟨-, rfl⟩ := exec_brk_next h <;> exact .inl rfl
  by_cases hsleep : i = .sleep
  · subst hsleep
    obtain rfl | ⟨hs, rfl⟩ := exec_sleep_next h
    · exact .inl rfl
    · exact .inr ⟨rfl, rfl, hs⟩
  · exact .inl (exec_effect hbrk hsleep h).sleeping

/-- R290: only BREAK under `stop` stops the core, and no instruction leaves that. -/
theorem exec_stopped {i : Instr} (h : exec i s = .next t) :
    t.stopped = s.stopped ∨ (t.stopped = true ∧ i = .brk ∧ s.cfg.breakMode = .stop) := by
  by_cases hbrk : i = .brk
  · subst hbrk
    obtain rfl | ⟨hb, rfl⟩ := exec_brk_next h
    · exact .inl rfl
    · exact .inr ⟨rfl, rfl, hb⟩
  by_cases hsleep : i = .sleep
  · subst hsleep
    obtain rfl | ⟨-, rfl⟩ := exec_sleep_next h <;> exact .inl rfl
  · exact .inl (exec_effect hbrk hsleep h).stopped

/-- Settles O59: BREAK and SLEEP write no flag, and every other instruction is bounded by its effect. -/
theorem onlyListedFlagsChange : Obligations.OnlyListedFlagsChange := by
  intro i s t f hwf h hdata hf
  by_cases hbrk : i = .brk
  · subst hbrk
    obtain rfl | ⟨-, rfl⟩ := exec_brk_next h <;> rfl
  by_cases hsleep : i = .sleep
  · subst hsleep
    obtain rfl | ⟨-, rfl⟩ := exec_sleep_next h <;> rfl
  · refine (exec_effect hbrk hsleep h).flags hwf f ?_
    rwa [flagsTouched, hdata]

/-! ## The step -/

theorem progWord_congr (hcfg : t.cfg = s.cfg) (hflash : t.flash = s.flash) (w : PcWord) :
    progWord t w = progWord s w := by
  simp only [progWord, State.flashByte, hcfg, hflash]

theorem fetch_congr (hcfg : t.cfg = s.cfg) (hflash : t.flash = s.flash) (hpc : t.pc = s.pc) : fetch t = fetch s := by
  simp only [fetch, State.pcAfter, progWord_congr hcfg hflash, hcfg, hpc]

/-- Taking the platform's answer drops it from the coming ones, and does nothing else (log 8). -/
theorem nextInput_snd (s : State) : (nextInput s).2 = { s with inputs := s.inputs.tail } := by
  obtain ⟨_, _, _, _, _, _, _, _, _, _, _, inputs, _, _⟩ := s
  cases inputs <;> rfl

theorem takeReset_moves (s : State) : Moves s (takeReset s) := ⟨rfl, rfl, takeReset_inv⟩

theorem stepWith_moves {p : PlatformInput} (h : stepWith p s = .next t) : Moves s t := by
  obtain ⟨-, rfl⟩ | ⟨-, -, rfl⟩ | ⟨-, -, v, -, hv⟩ | ⟨-, -, -, -, rfl⟩ | ⟨-, -, -, -, i, -, hi⟩ := stepWith_next h
  · exact takeReset_moves s
  · exact (Keeps.refl _).moves
  · exact takeInterrupt_moves hv
  · exact (clearInhibit_keeps s).moves
  · exact (clearInhibit_keeps s).moves.trans (exec_moves hi)

theorem step_moves (h : step s = .next t) : Moves s t :=
  (nextInput_keeps s).moves.trans (stepWith_moves h)

/-- Settles O8: every way a step can go keeps the invariant. -/
theorem stepKeepsTheInvariant : Obligations.StepKeepsTheInvariant :=
  fun _ _ hs h => (step_moves h).inv hs

/-- Settles O10: no way a step can go writes program memory or the configuration, and a fetch reads nothing else. -/
theorem stepKeepsProgramMemory : Obligations.StepKeepsProgramMemory := by
  intro s t h
  obtain ⟨hcfg, hflash, -⟩ := step_moves h
  have hword := progWord_congr hcfg hflash
  exact ⟨hcfg, hflash, hword, fun a => by simp only [progByte, hword]⟩

theorem takeInterrupt_sleeping {v : Nat} (h : takeInterrupt v s = .ok t) : t.sleeping = false := by
  obtain ⟨u, -, rfl⟩ := takeInterrupt_ok_iff.1 h
  rfl

theorem takeInterrupt_stopped {v : Nat} (h : takeInterrupt v s = .ok t) : t.stopped = s.stopped := by
  obtain ⟨u, hp, rfl⟩ := takeInterrupt_ok_iff.1 h
  exact (pushPc_effect hp).stopped

/-- R320: what a step does to `sleeping`. -/
theorem stepWith_sleeping {p : PlatformInput} (h : stepWith p s = .next t) :
    t.sleeping = s.sleeping ∨
      (t.sleeping = false ∧ (p.reset = true ∨ ∃ v, interruptTaken p.requests s = some v)) ∨
      (t.sleeping = true ∧ fetch { s with irqInhibit := false } = .ok .sleep ∧ s.cfg.sleepMode = .hold) := by
  obtain ⟨hr, rfl⟩ | ⟨-, -, rfl⟩ | ⟨-, -, v, hv, ht⟩ | ⟨-, -, -, -, rfl⟩ | ⟨-, -, -, -, i, hf, hi⟩ := stepWith_next h
  · exact .inr (.inl ⟨rfl, .inl hr⟩)
  · exact .inl rfl
  · exact .inr (.inl ⟨takeInterrupt_sleeping ht, .inr ⟨v, hv⟩⟩)
  · exact .inl rfl
  · obtain hsame | ⟨htrue, rfl, hmode⟩ := exec_sleeping hi
    · exact .inl hsame
    · exact .inr (.inr ⟨htrue, hf, hmode⟩)

/-- R290: what a step does to `stopped`. -/
theorem stepWith_stopped {p : PlatformInput} (h : stepWith p s = .next t) :
    t.stopped = s.stopped ∨ (t.stopped = false ∧ p.reset = true) ∨
      (t.stopped = true ∧ fetch { s with irqInhibit := false } = .ok .brk ∧ s.cfg.breakMode = .stop) := by
  obtain ⟨hr, rfl⟩ | ⟨-, -, rfl⟩ | ⟨-, -, v, -, ht⟩ | ⟨-, -, -, -, rfl⟩ | ⟨-, -, -, -, i, hf, hi⟩ := stepWith_next h
  · exact .inr (.inl ⟨rfl, hr⟩)
  · exact .inl rfl
  · exact .inl (takeInterrupt_stopped ht)
  · exact .inl rfl
  · obtain hsame | ⟨htrue, rfl, hmode⟩ := exec_stopped hi
    · exact .inl hsame
    · exact .inr (.inr ⟨htrue, hf, hmode⟩)

/-- Settles O15: the ways in which a step changes `sleeping` and `stopped` are those the rules name. -/
theorem onlySleepAndBreakHoldTheCore : Obligations.OnlySleepAndBreakHoldTheCore := by
  intro s t h
  rw [step, nextInput_snd] at h
  have hsleep := stepWith_sleeping h
  have hstop := stepWith_stopped h
  refine ⟨fun h0 h1 => ?_, fun h1 h0 => ?_, fun h0 h1 => ?_, fun h1 h0 => ?_⟩
  · obtain hsame | ⟨hfalse, -⟩ | ⟨-, hrun⟩ := hsleep
    · exact absurd (h1.symm.trans (hsame.trans h0)) nofun
    · exact absurd (h1.symm.trans hfalse) nofun
    · exact hrun
  · obtain hsame | ⟨-, hwake⟩ | ⟨htrue, -⟩ := hsleep
    · exact absurd (h0.symm.trans (hsame.trans h1)) nofun
    · exact hwake
    · exact absurd (h0.symm.trans htrue) nofun
  · obtain hsame | ⟨hfalse, -⟩ | ⟨-, hrun⟩ := hstop
    · exact absurd (h1.symm.trans (hsame.trans h0)) nofun
    · exact absurd (h1.symm.trans hfalse) nofun
    · exact hrun
  · obtain hsame | ⟨-, hreset⟩ | ⟨htrue, -⟩ := hstop
    · exact absurd (h0.symm.trans (hsame.trans h1)) nofun
    · exact hreset
    · exact absurd (h0.symm.trans htrue) nofun

end Sys2Proof.Machine
end

section
/-! # Over all instructions: another name means the same (R92), and S is N xor V (R345) -/

namespace Sys2Proof.Machine

/-! ## A left shift is an addition to itself (R252, R254) -/

theorem addResult_self (a : Byte) (c : Bool) : addResult a a c = shiftLeftResult a c := by
  revert a c; decide +kernel

theorem addCarryAt_self (k : BitNum) (a r : Byte) : addCarryAt k a a r = getBit a k := by
  unfold addCarryAt
  cases getBit a k <;> cases getBit r k <;> rfl

theorem addFlags_self (a : Byte) (c : Bool) : addFlags a a c = shiftLeftFlags a (shiftLeftResult a c) := by
  simp only [addFlags, shiftLeftFlags, addResult_self, addCarryAt_self, ArithFlags.mk.injEq, true_and, and_true]
  cases getBit a 7 <;> cases getBit (shiftLeftResult a c) 7 <;> rfl

theorem addInto_self (d : Reg) (c : Bool) (s : State) : addInto d (s.reg d) c s = shiftLeftInto d c s := by
  rw [addInto, shiftLeftInto, addFlags_self, addResult_self]

@[simp] theorem displaced_zero (s : State) (p : Pointer) : s.displaced p 0 = s.pointer p := BitVec.add_zero _

/-- Settles O58: the shifts to the left are additions, a displacement of 0 adds nothing, and the other rows are written
alike. -/
theorem aliasMeansWhatItsBaseMeans : Obligations.AliasMeansWhatItsBaseMeans := by
  intro i s
  cases i with
  | lsl d => exact congrArg _ (addInto_self d false s).symm
  | rol d => exact congrArg _ (addInto_self d (s.flag .c) s).symm
  | lddY _ q | lddZ _ q | stdY q _ | stdZ q _ =>
    simp only [Instr.base]
    split
    · subst q
      simp only [exec, execLddY, execLddZ, execStdY, execStdZ, execLdY, execLdZ, execStY, execStZ, displaced_zero]
    · rfl
  | _ => rfl

/-! ## S follows N and V -/

/-- The flags of a state in which S is N xor V. -/
def SignedFlags (x : Byte) : Prop := getFlag x .s = (getFlag x .n ^^ getFlag x .v)

theorem signed_putHCNVZS (x : Byte) (a : ArithFlags) : SignedFlags (putHCNVZS x a) := by
  simp [SignedFlags, ArithFlags.s]

theorem signed_putCNVZS (x : Byte) (a : ArithFlags) : SignedFlags (putCNVZS x a) := by
  simp [SignedFlags, ArithFlags.s]

theorem signed_putNVZS (x : Byte) (a : ArithFlags) : SignedFlags (putNVZS x a) := by
  simp [SignedFlags, ArithFlags.s]

theorem signed_putShiftRight {w : Bool} (hw : Flag.s ∈ if w then [Flag.z, .c, .n, .v, .s] else [.z, .c, .n, .v])
    (x : Byte) (a : ArithFlags) : SignedFlags (putShiftRight w x a) := by
  cases w
  · simp at hw
  · exact signed_putCNVZS x a

theorem signed_of_next {r t : State} (h : (.next r : Result) = .next t) (hr : SignedFlags r.sreg) :
    t.flag .s = (t.flag .n ^^ t.flag .v) := Host.Outcome.next.inj h ▸ hr

theorem not_both_flagsOfBit {n : BitNum} (hn : Flag.n ∈ allFlags.filter (·.bit == n))
    (hs : Flag.s ∈ allFlags.filter (·.bit == n)) : False := by
  rw [mem_flagsOfBit] at hn hs
  exact absurd (Flag.bit_inj (hn.trans hs.symm)) nofun

/-- Settles O60: each row that lists N and S ends with one of four writers of SREG, and no other row lists both. -/
theorem signedFlagFollowsArithmetic : Obligations.SignedFlagFollowsArithmetic := by
  intro i s t h hn hs
  cases i with
  | add | adc | lsl | rol | sub | subi | sbc | sbci | neg | cp | cpc | cpi =>
    exact signed_of_next h (signed_putHCNVZS _ _)
  | and | andi | or | ori | eor | sbr | cbr | tst | clr | inc | dec => exact signed_of_next h (signed_putNVZS _ _)
  | com | adiw | sbiw => exact signed_of_next h (signed_putCNVZS _ _)
  | lsr | ror | asr => exact signed_of_next h (signed_putShiftRight hs _ _)
  | bset | bclr => exact (not_both_flagsOfBit hn hs).elim
  | _ => simp [flagsWritten] at hn hs

end Sys2Proof.Machine
end

section
/-! # The step: fetch, placing, reset, interrupt requests (spec/60_exceptions.md) -/

namespace Sys2Proof.Machine

variable {s t : State}

/-! ## Program addresses (R25) -/

theorem toNat_truncPc {cfg : Config} (h : cfg.pcBits ≤ 22) (z : Int) :
    ((truncPc cfg z).toNat : Int) = z % ((2 ^ cfg.pcBits : Nat) : Int) := by
  have hpos : (0 : Int) < ((2 ^ cfg.pcBits : Nat) : Int) := by exact_mod_cast Nat.two_pow_pos _
  have hle : ((2 ^ cfg.pcBits : Nat) : Int) ≤ ((2 ^ 22 : Nat) : Int) := by
    exact_mod_cast Nat.pow_le_pow_right Nat.two_pos h
  have h0 := Int.emod_nonneg z hpos.ne'
  have h1 := Int.emod_lt_of_pos z hpos
  rw [truncPc, BitVec.toNat_ofInt, Int.emod_eq_of_lt h0 (lt_of_lt_of_le h1 hle), Int.toNat_of_nonneg h0]

theorem toNat_truncPc_natCast {cfg : Config} (h : cfg.pcBits ≤ 22) (n : Nat) :
    (truncPc cfg n).toNat = n % 2 ^ cfg.pcBits := by
  have hz := toNat_truncPc h n
  exact_mod_cast hz

theorem toNat_pcAfter (h : s.cfg.pcBits ≤ 22) (n : Nat) :
    (s.pcAfter n).toNat = (s.pc.toNat + n) % 2 ^ s.cfg.pcBits := by
  have hz := toNat_truncPc_natCast h (s.pc.toNat + n)
  rwa [Nat.cast_add] at hz

/-- The next program address is another one, since there are two at least. -/
theorem pcAfter_one_ne (h : s.Inv) : s.pcAfter 1 ≠ s.pc := by
  intro he
  obtain ⟨h1, h22, -⟩ := h.config
  have hfits := h.pcFits
  have hmod := toNat_pcAfter h22 1
  rw [he] at hmod
  have h2 : 2 ^ 1 ≤ 2 ^ s.cfg.pcBits := Nat.pow_le_pow_right Nat.two_pos h1
  rcases Nat.lt_or_ge (s.pc.toNat + 1) (2 ^ s.cfg.pcBits) with hlt | hge
  · rw [Nat.mod_eq_of_lt hlt] at hmod
    omega
  · rw [show s.pc.toNat + 1 = 2 ^ s.cfg.pcBits by omega, Nat.mod_self] at hmod
    omega

/-! ## The step that fetches -/

theorem step_of_runs (h : s.RunsInstruction) : step s = runInstr s.atInstruction := by
  obtain ⟨hreset, hstop, hsleep, hirq⟩ := h
  have hirq' : interruptTaken (nextInput s).1.requests (nextInput s).2 = none := by
    rw [nextInput_snd]; exact hirq
  simp only [step, stepWith, hreset, hirq', State.atInstruction]
  simp [nextInput_snd, hstop, hsleep]

theorem fetch_atInstruction (s : State) : fetch s.atInstruction = fetch s := by
  rw [State.atInstruction, nextInput_snd]
  exact fetch_congr rfl rfl rfl

/-- R13: a fetch of words that decode. -/
theorem fetch_eq {w0 w1 : Word} {i : Instr} (h0 : progWord s s.pc = .ok w0)
    (h1 : isTwoWord w0 = true → progWord s (s.pcAfter 1) = .ok w1)
    (hd : decodeWord w0 (if isTwoWord w0 then w1 else 0) = some i) : fetch s = .ok i := by
  rw [fetch_ok_iff]
  refine ⟨w0, if isTwoWord w0 then w1 else 0, h0, ?_, hd⟩
  unfold secondWord
  split
  · rename_i h2
    exact h1 h2
  · rfl

theorem step_of_fetch {i : Instr} (h : s.RunsInstruction) (hf : fetch s = .ok i) : step s = exec i s.atInstruction := by
  rw [step_of_runs h, runInstr, fetch_atInstruction, hf]

theorem step_of_fetch_fault {f : Fault} (h : s.RunsInstruction) (hf : fetch s = .error f) : step s = .fault f := by
  rw [step_of_runs h, runInstr, fetch_atInstruction, hf]

theorem progWord_of_lt {w : PcWord} (h : w.toNat < s.cfg.flashWords) :
    progWord s w = .ok (wordOfBytes (s.flashByte (2 * w.toNat)) (s.flashByte (2 * w.toNat + 1))) := if_pos h

theorem progWord_of_le {w : PcWord} (h : s.cfg.flashWords ≤ w.toNat) : progWord s w = .error (.fetchOutOfRange w) :=
  if_neg (Nat.not_lt.2 h)

theorem length_encode (i : Instr) : (encode i).length = if i.hasSecondWord then 2 else 1 := by
  rw [encode_eq]
  split <;> rfl

theorem length_encode_eq_two {i : Instr} {w0 : Word} (hw : encodeWord i = w0) (h : isTwoWord w0 = true) :
    (encode i).length = 2 := by
  rw [length_encode, ← isTwoWord_encodeWord, hw, if_pos h]

/-- Settles O6: the fetch reads the words of the bytes at the program counter. -/
theorem stepRunsDecodedInstruction : Obligations.StepRunsDecodedInstruction := by
  intro s i rest hrun _ hpc hpc1 hdec
  refine step_of_fetch hrun ?_
  obtain ⟨w0, w1, hd, hbytes⟩ := decode_ok hdec
  have hlen := length_encode_eq_two (readFrom_of_decodeWord hd).word
  cases h2 : isTwoWord w0 <;> simp only [h2, if_true, if_false, Bool.false_eq_true] at hbytes hlen <;>
    simp only [State.codeBytes, List.flatMap_cons, List.flatMap_nil, bytesOfWord, List.cons_append,
      List.nil_append, List.cons.injEq] at hbytes
  · obtain ⟨hl, hh, -⟩ := hbytes
    refine fetch_eq (w0 := w0) (w1 := w1) ?_ (fun h => absurd (h2.symm.trans h) nofun) hd
    rw [progWord_of_lt hpc, hl, hh, wordOfBytes_bytes]
  · obtain ⟨hl, hh, hl1, hh1, -⟩ := hbytes
    refine fetch_eq (w0 := w0) (w1 := w1) ?_ (fun _ => ?_) hd
    · rw [progWord_of_lt hpc, hl, hh, wordOfBytes_bytes]
    · rw [progWord_of_lt (hpc1 (hlen trivial)), hl1, hh1, wordOfBytes_bytes]

/-! ## Placing an instruction (log 7) -/

theorem get_storeProgWord {m : Memory} (h : Memory.WF flashErased m) (w : PcWord) (v : Word) (a : Nat) :
    (storeProgWord m w v).get flashErased a =
      if a = 2 * w.toNat + 1 then some (highByte v)
      else if a = 2 * w.toNat then some (lowByte v) else m.get flashErased a := by
  rw [storeProgWord, Memory.get_set (Memory.wf_set h _ _), Memory.get_set h]

theorem wf_storeProgWord {m : Memory} (h : Memory.WF flashErased m) (w : PcWord) (v : Word) :
    Memory.WF flashErased (storeProgWord m w v) := Memory.wf_set (Memory.wf_set h _ _) _ _

/-- The word at an address at which it was stored. -/
theorem progWord_stored {m : Memory} (hm : Memory.WF flashErased m) {w : PcWord} {v : Word}
    (hflash : t.flash = storeProgWord m w v) (hw : w.toNat < t.cfg.flashWords) : progWord t w = .ok v := by
  rw [progWord_of_lt hw, State.flashByte, State.flashByte, hflash, get_storeProgWord hm, get_storeProgWord hm,
    if_neg (by omega), if_pos rfl, if_pos rfl]
  exact congrArg _ (wordOfBytes_bytes v)

/-- A word at an address at which another store was made before. -/
theorem progWord_stored_before {m : Memory} (hm : Memory.WF flashErased m) {w w' : PcWord} {v v' : Word}
    (hflash : t.flash = storeProgWord (storeProgWord m w' v') w v) (hne : w' ≠ w) (hw : w'.toNat < t.cfg.flashWords) :
    progWord t w' = .ok v' := by
  have hne' : w'.toNat ≠ w.toNat := fun e => hne (BitVec.eq_of_toNat_eq e)
  rw [progWord_of_lt hw, State.flashByte, State.flashByte, hflash, get_storeProgWord (wf_storeProgWord hm _ _),
    get_storeProgWord (wf_storeProgWord hm _ _), get_storeProgWord hm, get_storeProgWord hm,
    if_neg (by omega), if_neg (by omega), if_neg (by omega), if_pos rfl, if_neg (by omega), if_neg (by omega),
    if_pos rfl]
  exact congrArg _ (wordOfBytes_bytes v')

/-- The first word in the bits of an instruction. -/
theorem ofNat_instrNumber (i : Instr) :
    BitVec.ofNat 16 (instrNumber i % 2 ^ (16 * (encode i).length)) = encodeWord i := by
  have h0 := (encodeWord i).isLt
  apply BitVec.eq_of_toNat_eq
  rw [BitVec.toNat_ofNat, instrNumber, encode_eq]
  cases i.hasSecondWord <;> simp <;> omega

/-- The second word in the bits of an instruction. -/
theorem ofNat_instrNumber_div (i : Instr) :
    BitVec.ofNat 16 (instrNumber i % 2 ^ (16 * (encode i).length) / 2 ^ 16) =
      if i.hasSecondWord then i.secondWord else 0 := by
  have h0 := (encodeWord i).isLt
  have h1 := i.secondWord.isLt
  apply BitVec.eq_of_toNat_eq
  rw [BitVec.toNat_ofNat, instrNumber, encode_eq]
  cases i.hasSecondWord
  · simp
  · simp
    omega

/-- A state in which an instruction was placed runs it: nothing arrives, and the core is awake (log 7). -/
theorem withFetchWord_runs (s : State) (n w : Nat) : (s.withFetchWord n w).RunsInstruction := by
  refine ⟨rfl, rfl, rfl, ?_⟩
  simp [interruptTaken, firstRequest, nextInput, State.withFetchWord, PlatformInput.quiet]

theorem withFetchWord_flash (s : State) (i : Instr) :
    (s.withFetchWord (16 * (encode i).length) (instrNumber i)).flash =
      storeProgWord (storeProgWord s.flash (s.pcAfter 1) (if i.hasSecondWord then i.secondWord else 0)) s.pc
        (encodeWord i) := by
  rw [← ofNat_instrNumber_div, ← ofNat_instrNumber]
  rfl

/-- Settles O7: the placed words are the ones fetched. -/
theorem storedInstructionIsRun : Obligations.StoredInstructionIsRun := by
  intro s i hs hwf hpc hpc1
  have hflash := withFetchWord_flash s i
  have hne := pcAfter_one_ne hs
  rw [secondWord_eq_of_hasSecondWord] at hflash
  refine step_of_fetch (withFetchWord_runs s _ _) (fetch_eq (w0 := encodeWord i) (w1 := i.secondWord) ?_ ?_ ?_)
  · exact progWord_stored (wf_storeProgWord hs.flashCanonical _ _) hflash hpc
  · intro h2
    exact progWord_stored_before hs.flashCanonical hflash hne (hpc1 (length_encode_eq_two rfl h2))
  · rw [isTwoWord_encodeWord, secondWord_eq_of_hasSecondWord]
    exact decodeWord_encodeWord i hwf

/-! ## Faults of the fetch (R58, R100) -/

/-- The word of LDS or STS is legal (R101). -/
theorem isLegalWord_of_isTwoWord {w : Word} (h : isTwoWord w = true) : isLegalWord w = true := by
  have hword : formatLS (w.extractLsb' 9 1) (fieldD w) 0 = w := by
    refine word_ext fun i hi => ?_
    have hbit := congrArg (BitVec.getLsbD · i) (show 0x9000#16 = w &&& 0xFC0F#16 from (eq_of_beq h).symm)
    revert hbit
    simp only [BitVec.getLsbD_and, formatLS_bit, fieldD_bit, BitVec.getLsbD_extractLsb']
    interval_cases i <;> simp
  have hone : ∀ x : BitVec 1, x = 0 ∨ x = 1 := by decide
  rw [← hword, isLegalWord_iff (w1 := 0)]
  rcases hone (w.extractLsb' 9 1) with hx | hx <;> rw [hx]
  · exact ⟨_, decodeWord_encodeWord (.lds (fieldD w) 0) rfl⟩
  · exact ⟨_, decodeWord_encodeWord (.sts 0 (fieldD w)) rfl⟩

theorem decodeWord_eq_none {w0 : Word} (h : isLegalWord w0 = false) (w1 : Word) : decodeWord w0 w1 = none := by
  refine Option.eq_none_iff_forall_ne_some.2 fun i hi => ?_
  exact absurd (isLegalWord_iff.2 ⟨i, hi⟩) (by simp [h])

theorem fetch_illegal {w : Word} (hw : progWord s s.pc = .ok w) (h : isLegalWord w = false) :
    fetch s = .error (.illegalOpcode s.pc w) := by
  have h2 : isTwoWord w = false :=
    Bool.eq_false_iff.2 fun h2 => absurd (isLegalWord_of_isTwoWord h2) (by simp [h])
  simp [fetch, hw, h2, decodeWord_eq_none h]

/-- Settles O17: the three ways in which a fetch fails, in the order of the fetch. -/
theorem fetchFaultsStopTheStep : Obligations.FetchFaultsStopTheStep := by
  intro s hrun
  refine ⟨fun hpc => ?_, fun w hw => ⟨fun hill => ?_, fun h2 hpc1 => ?_⟩⟩
  · exact step_of_fetch_fault hrun (by simp [fetch, progWord_of_le hpc])
  · exact step_of_fetch_fault hrun (fetch_illegal hw hill)
  · have h2' : isTwoWord w = true := beq_iff_eq.2 h2
    exact step_of_fetch_fault hrun (by simp [fetch, hw, h2', progWord_of_le hpc1])

/-! ## Reset, and the steps that fetch nothing -/

/-- Settles O9: REFCFG obeys its constraints, and both memories are empty. -/
theorem resetMeetsTheInvariant : Obligations.ResetMeetsTheInvariant where
  config := by decide
  pcFits := by decide
  spFits := nofun
  ramCanonical := by decide
  ramInRange := nofun
  flashCanonical := by decide
  sleepsByHold := nofun
  stopsByStop := nofun

theorem step_of_reset (h : (nextInput s).1.reset = true) : step s = .next (takeReset (nextInput s).2) := if_pos h

/-- Settles O11: the step is the reset event. -/
theorem resetEventLeavesResetValues : Obligations.ResetEventLeavesResetValues := by
  intro s h
  refine ⟨_, step_of_reset h, rfl, rfl, rfl, rfl, rfl, fun _ => rfl, ?_, ?_, fun v hv hw => ?_, fun v hv hw => ?_⟩ <;>
    rw [nextInput_snd]
  · rfl
  · rfl
  · simp [takeReset, State.afterReset, resetSp, hv, hw]
  · simp [takeReset, State.afterReset, resetSp, hv, hw]
    omega

/-- Settles O16: the step looks at `stopped` first, then at a request, then at `sleeping`. -/
theorem stoppedAndSleepingStepsChangeNothing : Obligations.StoppedAndSleepingStepsChangeNothing := by
  intro s hreset
  refine ⟨fun hstop => ?_, fun hstop hsleep hirq => ?_⟩
  · simp only [step, stepWith, hreset]
    simp [nextInput_snd, hstop]
  · have hirq' : interruptTaken (nextInput s).1.requests (nextInput s).2 = none := by
      rw [nextInput_snd]; exact hirq
    simp only [step, stepWith, hreset, hirq', State.atInstruction]
    simp [nextInput_snd, hstop, hsleep]

/-! ## Interrupt requests (R305 to R307) -/

theorem firstRequest_eq_some {cfg : Config} {requests : List Nat} {v : Nat} :
    firstRequest cfg requests = some v ↔
      v ∈ requests ∧ 1 ≤ v ∧ v < cfg.numVectors ∧ ∀ u ∈ requests, 1 ≤ u → u < cfg.numVectors → v ≤ u := by
  simp only [firstRequest, List.min?_eq_some_iff, List.mem_filter, decide_eq_true_eq, and_imp, and_assoc]

/-- Settles O13. -/
theorem lowestPendingRequestIsTaken : Obligations.LowestPendingRequestIsTaken := by
  intro s requests v
  rw [← firstRequest_eq_some, interruptTaken]
  cases s.flag .i <;> cases s.irqInhibit <;> simp

theorem interruptTaken_of_inhibit (h : s.irqInhibit = true) (requests : List Nat) :
    interruptTaken requests s = none := by
  simp [interruptTaken, h]

/-- R307, R311: SEI, `BSET 7` and RETI set I and `irq_inhibit`. -/
theorem exec_sets_inhibit {i : Instr} (hi : i ∈ [.sei, .bset 7, .reti]) (h : exec i s = .next t) :
    t.flag .i = true ∧ t.irqInhibit = true := by
  simp only [List.mem_cons, List.not_mem_nil, or_false] at hi
  rcases hi with rfl | rfl | rfl
  · cases h
    exact ⟨getFlag_putFlag _ .i .i true, Bool.or_true _⟩
  · cases h
    exact ⟨getFlag_putFlag _ .i .i true, Bool.or_true _⟩
  · obtain ⟨u, -, rfl⟩ := returnFromInterrupt_ok_iff.1 (conclude_eq_next.1 h)
    exact ⟨getFlag_putFlag _ .i .i true, rfl⟩

/-- Settles O14: `irq_inhibit` keeps every request back at the next boundary, and the core is as awake as before. -/
theorem instructionAfterSeiOrRetiRunsFirst : Obligations.InstructionAfterSeiOrRetiRunsFirst := by
  intro i s t requests hi h hstop hsleep
  obtain ⟨hflag, hinhibit⟩ := exec_sets_inhibit hi h
  have heffect : Effect (flagsTouched s.cfg i) s t := by
    refine exec_effect ?_ ?_ h <;> rintro rfl <;> simp at hi
  refine ⟨hflag, ?_⟩
  simp [stepWith, interruptTaken_of_inhibit hinhibit, heffect.stopped, heffect.sleeping, hstop, hsleep]

end Sys2Proof.Machine
end

section
/-! # The data space: routing and the bytes that are not a device's (spec/20_memory.md R51 to R56) -/

namespace Sys2Proof.Machine

variable {c : Config} {a : Word} {s t : State}

/-! ## Routing (R51) -/

theorem route_eq_reg_iff {i : Reg} : route c a = .reg i ↔ c.regsInDataSpace = true ∧ a.toNat = i.val := by
  unfold route
  constructor
  · intro h
    split at h
    · rename_i hr
      cases h
      exact ⟨hr.1, rfl⟩
    · repeat' split at h
      all_goals cases h
  · rintro ⟨hr, ha⟩
    rw [dif_pos ⟨hr, ha ▸ i.isLt⟩]
    exact congrArg Place.reg (Fin.ext ha)

theorem route_eq_io_iff {p : IoAddr} :
    route c a = .io p ↔ ¬(c.regsInDataSpace = true ∧ a.toNat < 32) ∧ a.toNat = c.ioDataBase + p.val := by
  unfold route
  constructor
  · intro h
    split at h
    · cases h
    · rename_i hr
      split at h
      · rename_i hi
        cases h
        exact ⟨hr, by simp only; omega⟩
      · repeat' split at h
        all_goals cases h
  · rintro ⟨hr, ha⟩
    have hp := p.isLt
    rw [dif_neg hr, dif_pos (by omega)]
    exact congrArg Place.io (Fin.ext (by simp only; omega))

/-- R51 below the registers and the I/O space. -/
theorem route_memory (hr : ¬(c.regsInDataSpace = true ∧ a.toNat < 32))
    (hi : ¬(c.ioDataBase ≤ a.toNat ∧ a.toNat < c.ioDataBase + 64)) :
    route c a = if c.ramStart ≤ a.toNat ∧ a.toNat ≤ c.ramEnd then .ram
      else if c.dataExtra.any (rangeHolds · a.toNat) then .extra else .unmapped := by
  rw [route, dif_neg hr, dif_neg hi]

theorem any_rangeHolds_iff (rs : List AddrRange) (n : Nat) :
    rs.any (rangeHolds · n) = true ↔ ∃ r ∈ rs, r.first ≤ n ∧ n ≤ r.last := by
  simp [rangeHolds]

/-- R51: two addresses that lead to one register are one. -/
theorem eq_of_route_reg {b : Word} {i : Reg} (ha : route c a = .reg i) (hb : route c b = .reg i) : a = b :=
  BitVec.eq_of_toNat_eq ((route_eq_reg_iff.1 ha).2.trans (route_eq_reg_iff.1 hb).2.symm)

/-- R51: two addresses that lead to one I/O location are one. -/
theorem eq_of_route_io {b : Word} {p : IoAddr} (ha : route c a = .io p) (hb : route c b = .io p) : a = b :=
  BitVec.eq_of_toNat_eq ((route_eq_io_iff.1 ha).2.trans (route_eq_io_iff.1 hb).2.symm)

/-- REFCFG's map, part by part. -/
theorem route_refcfg (a : Word) :
    (a ≤ 0x001F → ∃ i : Reg, i.val = a.toNat ∧ route Config.refcfg a = .reg i) ∧
    (0x0020 ≤ a ∧ a ≤ 0x005F → ∃ p : IoAddr, p.val + 0x20 = a.toNat ∧ route Config.refcfg a = .io p) ∧
    (0x0060 ≤ a ∧ a ≤ 0x025F → route Config.refcfg a = .ram) ∧
    (0x025F < a → route Config.refcfg a = .unmapped) := by
  have hbase : Config.refcfg.ioDataBase = 32 := rfl
  have hstart : Config.refcfg.ramStart = 96 := rfl
  have hend : Config.refcfg.ramEnd = 607 := rfl
  have hmem (h : 96 ≤ a.toNat) : route Config.refcfg a =
      if Config.refcfg.ramStart ≤ a.toNat ∧ a.toNat ≤ Config.refcfg.ramEnd then .ram else .unmapped :=
    route_memory (by omega) (by omega)
  simp only [BitVec.le_def, BitVec.lt_def, BitVec.ofNat_eq_ofNat, BitVec.toNat_ofNat]
  norm_num
  refine ⟨fun h => ⟨⟨a.toNat, by omega⟩, rfl, route_eq_reg_iff.2 ⟨rfl, rfl⟩⟩,
    fun h h' => ⟨⟨a.toNat - 32, by omega⟩, by simp only; omega, route_eq_io_iff.2 ⟨by omega, by simp only; omega⟩⟩,
    fun h h' => ?_, fun h => ?_⟩
  · rw [hmem h, if_pos (by omega)]
  · rw [hmem (by omega), if_neg (by omega)]

/-- Settles O18: the branches of the routing, the constraints that keep them apart, and REFCFG's numbers. -/
theorem dataMapRouting : Obligations.DataMapRouting := by
  refine ⟨fun c a => ⟨fun i hr ha => route_eq_reg_iff.2 ⟨hr, ha⟩, fun hr => ⟨fun p ha => ?_, fun hi => ⟨fun hram => ?_,
    fun hram => ⟨fun hx => ?_, fun hx => ?_⟩⟩⟩, fun hwf => ?_⟩, route_refcfg⟩
  · exact route_eq_io_iff.2 ⟨fun h => hr ⟨h.1, by omega⟩, ha⟩
  · rw [route_memory (fun h => hr ⟨h.1, by omega⟩) (by omega), if_pos hram]
  · rw [route_memory (fun h => hr ⟨h.1, by omega⟩) (by omega), if_neg hram, if_pos ((any_rangeHolds_iff _ _).2 hx)]
  · rw [route_memory (fun h => hr ⟨h.1, by omega⟩) (by omega), if_neg hram, if_neg]
    rw [any_rangeHolds_iff]
    rintro ⟨r, hr, hin⟩
    exact hx r hr hin
  · obtain ⟨-, -, -, hregs, hio, -⟩ := hwf
    refine ⟨?_, ?_, ?_⟩
    · rintro ⟨⟨hr, h⟩, h'⟩
      have := hregs hr
      omega
    · rintro ⟨⟨hr, h⟩, h'⟩
      have := hregs hr
      omega
    · omega

/-! ## RAM and the registers (R34, R70) -/

theorem memWrite_ram (h : route s.cfg a = .ram) (v : Byte) :
    memWrite a v s = .ok { s with ram := s.ram.set ramErased a.toNat v } := by
  simp only [memWrite, h]

theorem memWrite_reg {i : Reg} (h : route s.cfg a = .reg i) (v : Byte) : memWrite a v s = .ok (s.setReg i v) := by
  simp only [memWrite, h]

theorem ramByte_write (s : State) (n m : Nat) (v : Byte) :
    State.ramByte { s with ram := s.ram.set ramErased n v } m = if m = n then some v else s.ramByte m :=
  Memory.get_set_ram s.ram n m v

/-- Settles O19: a RAM byte is a cell of the memory and a register one of the vector, and a data address leads to
one. -/
theorem ramAndRegistersReadBack : Obligations.RamAndRegistersReadBack := by
  intro s t a v hroute h
  rcases hroute with hroute | ⟨i, hroute⟩
  · rw [memWrite_ram hroute] at h
    cases h
    refine ⟨memRead_of_dataByte ?_, fun b hb _ => ?_, fun _ _ _ _ => rfl⟩
    · simp only [State.dataByte, hroute, ramByte_write, if_true]
    · rw [ramByte_write, if_neg fun e => hb (BitVec.eq_of_toNat_eq e)]
  · rw [memWrite_reg hroute] at h
    cases h
    refine ⟨memRead_of_dataByte ?_, fun _ _ _ => rfl, fun b j hb hj => ?_⟩
    · simp only [State.dataByte, State.setReg_cfg, hroute, State.reg_setReg, if_true]
    · exact State.reg_setReg_ne s v fun e => hb (eq_of_route_reg (e ▸ hj) hroute)

/-! ## SREG and SP in the data space (R28, R30, R54) -/

/-- R51: under the constraints an I/O location is reached at its own data address. -/
theorem route_io_of_wf (hwf : c.WF) {p : Nat} (hp : p < 64) (ha : a.toNat = c.ioDataBase + p) :
    route c a = .io ⟨p, hp⟩ := by
  obtain ⟨-, -, -, hregs, -⟩ := hwf
  refine route_eq_io_iff.2 ⟨?_, ha⟩
  rintro ⟨hr, h⟩
  have := hregs hr
  omega

theorem ioPlace_sreg (hp : c.ioSreg < 64) : ioPlace c ⟨c.ioSreg, hp⟩ = .sreg := if_pos rfl

theorem ioPlace_spl (hwf : c.WF) (hp : c.ioSpl < 64) : ioPlace c ⟨c.ioSpl, hp⟩ = .spl := by
  obtain ⟨-, -, -, -, -, -, -, -, -, -, -, -, h1, h2, h3, -⟩ := hwf
  rw [ioPlace, if_neg h1.symm, if_pos rfl]

theorem ioPlace_sph (hwf : c.WF) (hp : c.ioSph < 64) : ioPlace c ⟨c.ioSph, hp⟩ = .sph := by
  obtain ⟨-, -, -, -, -, -, -, -, -, -, -, -, h1, h2, h3, -⟩ := hwf
  rw [ioPlace, if_neg h2.symm, if_neg h3.symm, if_pos rfl]

theorem ioLocations_lt (hwf : c.WF) : c.ioSreg < 64 ∧ c.ioSpl < 64 ∧ c.ioSph < 64 := by
  obtain ⟨-, -, -, -, -, -, -, h1, -, h2, -, h3, -⟩ := hwf
  omega

/-- R52: a read routed to one of the core's own registers. -/
theorem memRead_core {p : IoAddr} {v : Byte} (hr : route s.cfg a = .io p) (hb : s.ioByte p = some v) :
    memRead a s = .ok (v, s) := memRead_of_dataByte (by simpa only [State.dataByte, hr] using hb)

/-- R53: a write routed to one of the core's own registers. -/
theorem memWrite_core {p : IoAddr} (hr : route s.cfg a = .io p) (hp : ioPlace s.cfg p ≠ .device) (v : Byte) :
    memWrite a v s = .ok (ioStore p v s) := by
  simp only [memWrite, hr]
  exact ioWrite_ok_iff.2 ⟨deviceRaises_of_core hp _, rfl⟩

/-- Settles O20: the three locations are the core's own, at the data addresses of their I/O locations. -/
theorem sregAndSpThroughTheDataSpace : Obligations.SregAndSpThroughTheDataSpace := by
  intro s a hwf
  obtain ⟨hsreg, hspl, hsph⟩ := ioLocations_lt hwf
  have psreg := ioPlace_sreg hsreg
  have pspl := ioPlace_spl hwf hspl
  have psph := ioPlace_sph hwf hsph
  refine ⟨fun ha => ?_, fun ha => ?_, fun ha hw => ?_, fun ha hw => ?_⟩
  · have hr := route_io_of_wf hwf hsreg ha
    refine ⟨memRead_core hr (by simp only [State.ioByte, psreg]), fun v =>
      ⟨_, memWrite_core hr (by simp [psreg]) v, ?_, ?_⟩⟩ <;> simp only [ioStore, psreg]
    · exact writeSreg_sreg v s
    · exact (writeSreg_touches v s).sp rfl
  · have hr := route_io_of_wf hwf hspl ha
    refine ⟨memRead_core hr (by simp only [State.ioByte, pspl]), fun v =>
      ⟨_, memWrite_core hr (by simp [pspl]) v, ?_, ?_, ?_⟩⟩ <;> simp only [ioStore, pspl, State.setSpLow]
    · exact lowByte_wordOfBytes _ _
    · exact highByte_wordOfBytes _ _
  · have hr := route_io_of_wf hwf hsph ha
    refine ⟨memRead_core hr (by simp only [State.ioByte, psph, State.spHigh, hw]), fun v =>
      ⟨_, memWrite_core hr (by simp [psph]) v, ?_, ?_, ?_⟩⟩ <;> simp only [ioStore, psph, State.setSpHigh, hw]
    · exact highByte_wordOfBytes _ _
    · exact lowByte_wordOfBytes _ _
  · have hr := route_io_of_wf hwf hsph ha
    refine ⟨memRead_core hr (by simp only [State.ioByte, psph, State.spHigh, hw]), fun v =>
      (memWrite_core hr (by simp [psph]) v).trans ?_⟩
    simp only [ioStore, psph, State.setSpHigh, hw]

end Sys2Proof.Machine
end

section
/-! # Subtraction, comparison and word arithmetic (spec/41_arithmetic_logic.md R112, R116 to R121, R128 to R136) -/

namespace Sys2Proof.Machine

/-! ## A subtraction is the addition of the complement (R112) -/

theorem subResult_eq_addResult (a b : Byte) (bin : Bool) : subResult a b bin = addResult a (~~~b) (!bin) := by
  apply BitVec.eq_of_toNat_eq
  rw [toNat_addResult, BitVec.toNat_not]
  have ha := a.isLt
  have hb := b.isLt
  cases bin <;> simp [subResult, carryByte, BitVec.toNat_sub] <;> omega

theorem subResult_eq_ofInt (a b : Byte) (bin : Bool) :
    subResult a b bin = BitVec.ofInt 8 (a.toNat - b.toNat - bin.toNat : Int) := by
  apply BitVec.eq_of_toNat_eq
  rw [subResult_eq_addResult, toNat_addResult, BitVec.toNat_not, BitVec.toNat_ofInt]
  have ha := a.isLt
  have hb := b.isLt
  cases bin <;> simp <;> omega

theorem subResult_false (a b : Byte) : subResult a b false = a - b := BitVec.sub_zero _

theorem toNat_subResult (a b : Byte) (bin : Bool) :
    (subResult a b bin).toNat = (a.toNat + (255 - b.toNat) + (1 - bin.toNat)) % 256 := by
  rw [subResult_eq_addResult, toNat_addResult, BitVec.toNat_not]
  cases bin <;> rfl

/-- The borrow into a bit is the complement of the carry of the addition of the complement. -/
theorem subBorrowAt_eq_not_addCarryAt (k : BitNum) (a b r : Byte) :
    subBorrowAt k a b r = !addCarryAt k a (~~~b) r := by
  have hk : getBit (~~~b) k = !getBit b k := by
    simp only [getBit, BitVec.getLsbD_not, k.isLt, decide_true, Bool.true_and]
  unfold subBorrowAt addCarryAt
  rw [hk]
  cases getBit a k <;> cases getBit b k <;> cases getBit r k <;> rfl

theorem subBorrowAt_eq_not_carry (a b : Byte) (bin : Bool) (k : BitNum) :
    subBorrowAt k a b (subResult a b bin) = !BitVec.carry (k.val + 1) a (~~~b) (!bin) := by
  rw [subBorrowAt_eq_not_addCarryAt, subResult_eq_addResult, addCarryAt_eq_carry]

theorem subFlags_c_eq_lt (a b : Byte) (bin : Bool) :
    (subFlags a b bin).c = decide (a.toNat < b.toNat + bin.toNat) := by
  refine (subBorrowAt_eq_not_carry a b bin 7).trans ?_
  have ha := a.isLt
  have hb := b.isLt
  rw [BitVec.carry, BitVec.toNat_not, Bool.eq_iff_iff]
  cases bin <;> simp <;> omega

theorem subFlags_h_eq_lt (a b : Byte) (bin : Bool) :
    (subFlags a b bin).h = decide (a.toNat % 16 < b.toNat % 16 + bin.toNat) := by
  refine (subBorrowAt_eq_not_carry a b bin 3).trans ?_
  have ha := a.isLt
  have hb := b.isLt
  rw [BitVec.carry, BitVec.toNat_not, Bool.eq_iff_iff]
  cases bin <;> simp <;> omega

/-- V is signed overflow of the difference. -/
theorem subFlags_v_eq_overflow (a b : Byte) (bin : Bool) :
    (subFlags a b bin).v =
      decide (a.toInt - b.toInt - (bin.toNat : Int) < -128 ∨ 127 < a.toInt - b.toInt - (bin.toNat : Int)) := by
  have ha := a.isLt
  have hb := b.isLt
  have hc := bin.toNat_le
  simp only [subFlags, getBit_seven, toNat_subResult, BitVec.toInt_eq_toNat_cond]
  rw [Bool.eq_iff_iff]
  simp only [Bool.or_eq_true, Bool.and_eq_true, Bool.not_eq_true', decide_eq_true_eq, decide_eq_false_iff_not]
  omega

/-- S is the sign of the exact difference. -/
theorem subFlags_s_eq_neg (a b : Byte) (bin : Bool) :
    (subFlags a b bin).s = decide (a.toInt - b.toInt - (bin.toNat : Int) < 0) := by
  have ha := a.isLt
  have hb := b.isLt
  have hc := bin.toNat_le
  rw [ArithFlags.s, subFlags_v_eq_overflow]
  simp only [subFlags, getBit_seven, toNat_subResult, BitVec.toInt_eq_toNat_cond]
  rw [Bool.eq_iff_iff, Bool.xor_iff_ne]
  simp only [ne_eq, decide_eq_decide, decide_eq_true_eq]
  omega

/-- S is the sign of the exact sum. -/
theorem addFlags_s_eq_neg (a b : Byte) (cin : Bool) :
    (addFlags a b cin).s = decide (a.toInt + b.toInt + (cin.toNat : Int) < 0) := by
  have ha := a.isLt
  have hb := b.isLt
  have hc := cin.toNat_le
  rw [ArithFlags.s, addFlags_v_eq_overflow]
  simp only [addFlags, getBit_seven, toNat_addResult, BitVec.toInt_eq_toNat_cond]
  rw [Bool.eq_iff_iff, Bool.xor_iff_ne]
  simp only [ne_eq, decide_eq_decide, decide_eq_true_eq]
  omega

/-- The flags of R112 in a state whose SREG was written with them; Z is the rule's own. -/
theorem subtractionFlags_of_sreg {a b x : Byte} {bin z : Bool} {t : State}
    (h : t.sreg = putHCNVZS x { subFlags a b bin with z := z }) :
    SubtractionFlags a b bin (subResult a b bin) z t := by
  constructor <;> simp only [State.flag, h, getFlag_putHCNVZS]
  case cSum => exact subFlags_c_eq_lt a b bin
  case hSum => exact subFlags_h_eq_lt a b bin
  all_goals rfl

/-! ## SUB, SUBI, SBC, SBCI -/

theorem subInto_advances (d : Reg) (b : Byte) (s : State) :
    Advances 1 { regs := [d], flags := sixFlags } s (subInto d b s) :=
  writeResult_advances s d _ _ fun _ => getFlag_putHCNVZS_of_notMem s.sreg _

theorem subCarryInto_advances (d : Reg) (b : Byte) (s : State) :
    Advances 1 { regs := [d], flags := sixFlags } s (subCarryInto d b s) :=
  writeResult_advances s d _ _ fun _ => getFlag_putHCNVZS_of_notMem s.sreg _

theorem reg_subInto (d : Reg) (b : Byte) (s : State) : (subInto d b s).reg d = subResult (s.reg d) b false := by
  simp [subInto]

theorem reg_subCarryInto (d : Reg) (b : Byte) (s : State) :
    (subCarryInto d b s).reg d = subResult (s.reg d) b (s.flag .c) := by
  simp [subCarryInto]

theorem subInto_writes (d : Reg) (b : Byte) (s : State) :
    (subInto d b s).reg d = BitVec.ofInt 8 ((s.reg d).toNat - b.toNat : Int) ∧
      SubtractionFlags (s.reg d) b false ((subInto d b s).reg d) (decide ((subInto d b s).reg d = 0))
        (subInto d b s) := by
  rw [reg_subInto]
  refine ⟨?_, subtractionFlags_of_sreg (x := s.sreg) rfl⟩
  rw [subResult_eq_ofInt]
  exact congrArg _ (Int.sub_zero _)

theorem subCarryInto_writes (d : Reg) (b : Byte) (s : State) :
    (subCarryInto d b s).reg d = BitVec.ofInt 8 ((s.reg d).toNat - b.toNat - (s.flag .c).toNat : Int) ∧
      SubtractionFlags (s.reg d) b (s.flag .c) ((subCarryInto d b s).reg d)
        (decide ((subCarryInto d b s).reg d = 0) && s.flag .z) (subCarryInto d b s) := by
  rw [reg_subCarryInto]
  exact ⟨subResult_eq_ofInt _ _ _, subtractionFlags_of_sreg (x := s.sreg) rfl⟩

/-- Settles O23: SUB and SUBI are `subInto`, SBC and SBCI are `subCarryInto`. -/
theorem subtractionWritesDifferenceAndFlags : Obligations.SubtractionWritesDifferenceAndFlags := by
  intro d r k s
  exact ⟨⟨_, rfl, subInto_advances d _ s, subInto_writes d _ s⟩, ⟨_, rfl, subInto_advances d k s, subInto_writes d k s⟩,
    ⟨_, rfl, subCarryInto_advances d _ s, subCarryInto_writes d _ s⟩,
    ⟨_, rfl, subCarryInto_advances d k s, subCarryInto_writes d k s⟩⟩

/-! ## CP, CPI, CPC -/

@[simp] theorem State.flag_writeFlags (s : State) (x : Byte) (f : Flag) : (s.writeFlags x).flag f = getFlag x f := rfl

/-- The frame of what writes SREG alone. -/
theorem writeFlags_advances (s : State) (x : Byte) {fs : List Flag}
    (hx : ∀ f, f ∉ fs → getFlag x f = getFlag s.sreg f) : Advances 1 { flags := fs } s (s.writeFlags x) where
  pc := rfl
  frame := ((OnlyTouches.refl _ s).withSreg x hx).withPc _

theorem compareWith_advances (d : Reg) (b : Byte) (s : State) :
    Advances 1 { flags := sixFlags } s (compareWith d b s) :=
  writeFlags_advances s _ fun _ => getFlag_putHCNVZS_of_notMem s.sreg _

/-- The difference is zero exactly where the operands are equal. -/
theorem decide_eq_subFlags_z (a b : Byte) : decide (a = b) = (subFlags a b false).z := by
  refine (decide_eq_decide.2 ?_ : _ = decide (subResult a b false = 0x00))
  rw [subResult_false]
  exact sub_eq_zero.symm

theorem compareWith_flags (d : Reg) (b : Byte) (s : State) :
    SubtractionFlags (s.reg d) b false (s.reg d - b) (decide (s.reg d = b)) (compareWith d b s) := by
  rw [← subResult_false, decide_eq_subFlags_z]
  exact subtractionFlags_of_sreg (x := s.sreg) rfl

theorem decide_eq_subCarry_z (a b : Byte) (bin : Bool) :
    decide (a.toNat = (b.toNat + bin.toNat) % 256) = (subFlags a b bin).z := by
  refine (decide_eq_decide.2 ?_ : _ = decide (subResult a b bin = 0x00))
  rw [← BitVec.toNat_inj, toNat_subResult]
  have ha := a.isLt
  have hb := b.isLt
  cases bin <;> simp <;> omega

/-- Settles O24: CP and CPI are `compareWith`, and CPC writes the flags of SBC. -/
theorem compareWritesFlagsOnly : Obligations.CompareWritesFlagsOnly := by
  intro d r k s
  refine ⟨⟨_, rfl, compareWith_advances d _ s, compareWith_flags d _ s⟩,
    ⟨_, rfl, compareWith_advances d k s, compareWith_flags d k s⟩,
    ⟨_, rfl, writeFlags_advances s _ fun _ => getFlag_putHCNVZS_of_notMem s.sreg _, ?_⟩⟩
  rw [← subResult_eq_ofInt, decide_eq_subCarry_z]
  exact subtractionFlags_of_sreg (x := s.sreg) rfl

/-! ## ADIW and SBIW (R116, R121) -/

theorem toNat_wordOfBytes (l h : Byte) : (wordOfBytes l h).toNat = l.toNat + 256 * h.toNat := by
  have hl := l.isLt
  rw [wordOfBytes, BitVec.toNat_append, Nat.shiftLeft_eq, Nat.mul_comm, ← Nat.two_pow_add_eq_or_of_lt hl]
  omega

theorem getLsbD_fifteen (w : Word) : w.getLsbD 15 = decide (32768 ≤ w.toNat) := BitVec.msb_eq_decide w

@[simp] theorem State.pair_writePairResult (s : State) (d : Reg) (r : Word) (x : Byte) :
    (s.writePairResult d r x).pair d = r := s.pair_setPair d r

@[simp] theorem State.flag_writePairResult (s : State) (d : Reg) (r : Word) (x : Byte) (f : Flag) :
    (s.writePairResult d r x).flag f = getFlag x f := rfl

/-- The frame of a pair result: two registers, and the flags in which the new SREG may differ from the old one. -/
theorem writePairResult_advances (s : State) (d : Reg) (r : Word) (x : Byte) {fs : List Flag}
    (hx : ∀ f, f ∉ fs → getFlag x f = getFlag s.sreg f) :
    Advances 1 { regs := [d, nextReg d], flags := fs } s (s.writePairResult d r x) where
  pc := rfl
  frame := ((((OnlyTouches.refl _ s).setReg (.head _) _).setReg (.tail _ (.head _)) _).withSreg x hx).withPc _

theorem toNat_add_k (w : Word) (k : BitVec 6) : (w + k.setWidth 16).toNat = (w.toNat + k.toNat) % 65536 := by
  have hk := k.isLt
  simp

theorem toNat_sub_k (w : Word) (k : BitVec 6) : (w - k.setWidth 16).toNat = (w.toNat + (65536 - k.toNat)) % 65536 := by
  have hk := k.isLt
  simp [BitVec.toNat_sub]
  omega

/-- C of ADIW is the carry out of bit 15: the pair grows by less than half its range. -/
theorem adiwFlags_c_eq_sum (w : Word) (k : BitVec 6) :
    (adiwFlags w (w + k.setWidth 16)).c = decide (65536 ≤ w.toNat + k.toNat) := by
  have hw := w.isLt
  have hk := k.isLt
  simp only [adiwFlags, getLsbD_fifteen, toNat_add_k]
  rw [Bool.eq_iff_iff]
  simp only [Bool.and_eq_true, Bool.not_eq_true', decide_eq_true_eq, decide_eq_false_iff_not]
  omega

/-- C of SBIW is the borrow. -/
theorem sbiwFlags_c_eq_lt (w : Word) (k : BitVec 6) :
    (sbiwFlags w (w - k.setWidth 16)).c = decide (w.toNat < k.toNat) := by
  have hw := w.isLt
  have hk := k.isLt
  simp only [sbiwFlags, getLsbD_fifteen, toNat_sub_k]
  rw [Bool.eq_iff_iff]
  simp only [Bool.and_eq_true, Bool.not_eq_true', decide_eq_true_eq, decide_eq_false_iff_not]
  omega

theorem sub_k_eq_ofInt (w : Word) (k : BitVec 6) : w - k.setWidth 16 = BitVec.ofInt 16 (w.toNat - k.toNat : Int) := by
  have hw := w.isLt
  have hk := k.isLt
  apply BitVec.eq_of_toNat_eq
  rw [toNat_sub_k, BitVec.toNat_ofInt]
  norm_num
  omega

/-- Settles O25: the pair and C by arithmetic, the other flags as they are defined. -/
theorem wordArithmeticWritesPairAndFlags : Obligations.WordArithmeticWritesPairAndFlags := by
  intro d k s _
  refine ⟨⟨_, rfl, writePairResult_advances s d _ _ fun _ => getFlag_putCNVZS_of_notMem s.sreg _, ?_⟩,
    ⟨_, rfl, writePairResult_advances s d _ _ fun _ => getFlag_putCNVZS_of_notMem s.sreg _, ?_⟩⟩ <;>
    simp only [State.pair_writePairResult, State.flag_writePairResult, getFlag_putCNVZS]
  · exact ⟨BitVec.eq_of_toNat_eq (toNat_add_k _ k), rfl, rfl, adiwFlags_c_eq_sum _ k, rfl, rfl, rfl⟩
  · exact ⟨sub_k_eq_ofInt _ k, rfl, rfl, sbiwFlags_c_eq_lt _ k, rfl, rfl, rfl⟩

/-! ## NEG, INC, DEC (R128, R131, R132) -/

theorem toNat_zero_sub (a : Byte) : (0x00 - a).toNat = (256 - a.toNat) % 256 := by
  simp

/-- R128: the flags of NEG are those of the subtraction from zero. -/
theorem negFlags_eq_subFlags (a : Byte) : negFlags a (0x00 - a) = subFlags 0x00 a false := by
  have ha := a.isLt
  have hzero : ∀ k, getBit 0x00 k = false := by decide
  have hv : (0x00 - a == 0x80) = (getBit a 7 && getBit (0x00 - a) 7) := by
    rw [getBit_seven, getBit_seven, Bool.eq_iff_iff, beq_iff_eq, ← BitVec.toNat_inj, toNat_zero_sub]
    simp
    omega
  have hc : (0x00 - a != 0x00) = (subFlags 0x00 a false).c := by
    rw [subFlags_c_eq_lt, Bool.eq_iff_iff, bne_iff_ne, ne_eq, ← BitVec.toNat_inj, toNat_zero_sub]
    simp
    omega
  simp only [negFlags, hv, hc]
  simp only [subFlags, subResult_false, subBorrowAt, hzero]
  cases getBit a 3 <;> cases getBit (0x00 - a) 3 <;> simp

theorem neg_eq_subInto_zero (a : Byte) : 0x00 - a = subResult 0x00 a false := (subResult_false _ _).symm

/-- Settles O27: NEG is a subtraction from zero, INC and DEC are by one. -/
theorem negIncDecWriteResultAndFlags : Obligations.NegIncDecWriteResultAndFlags := by
  intro d s
  have ha := (s.reg d).isLt
  refine ⟨⟨_, rfl, writeResult_advances s d _ _ fun _ => getFlag_putHCNVZS_of_notMem s.sreg _, ?_⟩,
    ⟨_, rfl, writeResult_advances s d _ _ fun _ => getFlag_putNVZS_of_notMem s.sreg _, ?_⟩,
    ⟨_, rfl, writeResult_advances s d _ _ fun _ => getFlag_putNVZS_of_notMem s.sreg _, ?_⟩⟩ <;>
    simp only [State.reg_writeResult, State.flag_writeResult, if_true]
  · refine ⟨?_, ?_, getFlag_putHCNVZS _ _ .v, (getFlag_putHCNVZS _ _ .c).trans ?_⟩
    · rw [neg_eq_subInto_zero, subResult_eq_ofInt]
      simp
    · rw [negFlags_eq_subFlags, neg_eq_subInto_zero]
      exact subtractionFlags_of_sreg (x := s.sreg) rfl
    · exact (decide_not (p := 0x00 - s.reg d = 0x00)).symm
  · have hv : (s.reg d + 1 == 0x80) = decide (s.reg d = 0x7F) := by
      rw [Bool.eq_iff_iff, beq_iff_eq, decide_eq_true_iff, ← BitVec.toNat_inj, ← BitVec.toNat_inj]
      simp
      omega
    refine ⟨BitVec.eq_of_toNat_eq (by simp), ?_, ?_, ?_, ?_⟩ <;> simp [incFlags, logicFlags, ArithFlags.s]
    · simpa using hv
    · rfl
  · have hv : (s.reg d - 1 == 0x7F) = decide (s.reg d = 0x80) := by
      rw [Bool.eq_iff_iff, beq_iff_eq, decide_eq_true_iff, ← BitVec.toNat_inj, ← BitVec.toNat_inj]
      simp [BitVec.toNat_sub]
      omega
    refine ⟨BitVec.eq_of_toNat_eq (by simp [BitVec.toNat_sub, BitVec.toNat_ofInt]; omega), ?_, ?_, ?_, ?_⟩ <;>
      simp [decFlags, logicFlags, ArithFlags.s]
    · simpa using hv
    · rfl

end Sys2Proof.Machine
end

section
/-! # Comparison before a branch, and operations over register pairs (spec/41_arithmetic_logic.md R136) -/

namespace Sys2Proof.Machine

/-! ## CP and a branch -/

theorem compareWith_c (d : Reg) (b : Byte) (s : State) :
    (compareWith d b s).flag .c = decide ((s.reg d).toNat < b.toNat) := (compareWith_flags d b s).cSum

theorem compareWith_z (d : Reg) (b : Byte) (s : State) : (compareWith d b s).flag .z = decide (s.reg d = b) :=
  (compareWith_flags d b s).z

theorem compareWith_s (d : Reg) (b : Byte) (s : State) :
    (compareWith d b s).flag .s = decide ((s.reg d).toInt < b.toInt) := by
  refine (getFlag_putHCNVZS _ _ .s).trans ((subFlags_s_eq_neg _ _ _).trans (decide_eq_decide.2 ?_))
  simp

theorem pc_branchIf (c : Bool) (k : BitVec 7) (s : State) :
    (branchIf c k s).pc = if c then s.relTarget k.toInt else s.pcAfter 1 := by
  rw [branchIf_eq]

theorem exec_branchIf_pc {i : Instr} {c : Bool} {k : BitVec 7} {s : State} (h : exec i s = .next (branchIf c k s)) :
    ∃ u, exec i s = .next u ∧ u.pc = if c then s.relTarget k.toInt else s.pcAfter 1 :=
  ⟨_, h, pc_branchIf c k s⟩

/-- Settles O29: C, S and Z of the comparison are the orders and equality, and each branch tests one of them. -/
theorem compareThenBranchDecidesOrder : Obligations.CompareThenBranchDecidesOrder := by
  intro d r s k
  refine ⟨compareWith d (s.reg r) s, rfl, ?_⟩
  have hc := compareWith_c d (s.reg r) s
  have hs := compareWith_s d (s.reg r) s
  have hz := compareWith_z d (s.reg r) s
  generalize compareWith d (s.reg r) s = t at hc hs hz
  simp only [List.forall_mem_cons, ← not_lt, ne_eq, decide_not]
  rw [← hc, ← hs, ← hz]
  exact ⟨exec_branchIf_pc rfl, exec_branchIf_pc rfl, exec_branchIf_pc rfl, exec_branchIf_pc rfl, exec_branchIf_pc rfl,
    exec_branchIf_pc rfl, exec_branchIf_pc rfl, exec_branchIf_pc rfl, List.forall_mem_nil _⟩

/-! ## Register pairs, byte by byte -/

theorem toInt_wordOfBytes (l h : Byte) : (wordOfBytes l h).toInt = l.toNat + 256 * h.toInt := by
  have hl := l.isLt
  have hh := h.isLt
  simp only [BitVec.toInt_eq_toNat_cond, toNat_wordOfBytes]
  split <;> split <;> omega

theorem getLsbD_fifteen_wordOfBytes (l h : Byte) : (wordOfBytes l h).getLsbD 15 = getBit h 7 := by
  have hl := l.isLt
  rw [getLsbD_fifteen, getBit_seven, toNat_wordOfBytes, decide_eq_decide]
  omega

section
variable (a0 a1 b0 b1 : Byte)

/-- The carry out of the low bytes. -/
abbrev lowCarry : Bool := (addFlags a0 b0 false).c

/-- The borrow out of the low bytes. -/
abbrev lowBorrow : Bool := (subFlags a0 b0 false).c

theorem toNat_lowCarry : (lowCarry a0 b0).toNat = if 256 ≤ a0.toNat + b0.toNat then 1 else 0 := by
  rw [lowCarry, addFlags_c_eq_sum]
  simp [Bool.toNat]

theorem toNat_lowBorrow : (lowBorrow a0 b0).toNat = if a0.toNat < b0.toNat then 1 else 0 := by
  rw [lowBorrow, subFlags_c_eq_lt]
  simp [Bool.toNat]

theorem wordOfBytes_add :
    wordOfBytes (addResult a0 b0 false) (addResult a1 b1 (lowCarry a0 b0)) = wordOfBytes a0 a1 + wordOfBytes b0 b1 := by
  apply BitVec.eq_of_toNat_eq
  have hc := toNat_lowCarry a0 b0
  have ha := a0.isLt
  have hb := b0.isLt
  rw [BitVec.toNat_add]
  simp only [toNat_wordOfBytes, toNat_addResult, Bool.toNat_false]
  split at hc <;> omega

theorem wordOfBytes_sub :
    wordOfBytes (subResult a0 b0 false) (subResult a1 b1 (lowBorrow a0 b0)) =
      wordOfBytes a0 a1 - wordOfBytes b0 b1 := by
  apply BitVec.eq_of_toNat_eq
  have hc := toNat_lowBorrow a0 b0
  have ha0 := a0.isLt
  have hb0 := b0.isLt
  have ha1 := a1.isLt
  have hb1 := b1.isLt
  rw [BitVec.toNat_sub]
  simp only [toNat_wordOfBytes, toNat_subResult, Bool.toNat_false]
  split at hc <;> omega

theorem addFlags_c_pair :
    (addFlags a1 b1 (lowCarry a0 b0)).c = decide (65536 ≤ (wordOfBytes a0 a1).toNat + (wordOfBytes b0 b1).toNat) := by
  have hc := toNat_lowCarry a0 b0
  have ha := a0.isLt
  have hb := b0.isLt
  rw [addFlags_c_eq_sum, toNat_wordOfBytes, toNat_wordOfBytes, decide_eq_decide]
  split at hc <;> omega

theorem addFlags_v_pair :
    (addFlags a1 b1 (lowCarry a0 b0)).v =
      decide ((wordOfBytes a0 a1).toInt + (wordOfBytes b0 b1).toInt < -32768 ∨
        32767 < (wordOfBytes a0 a1).toInt + (wordOfBytes b0 b1).toInt) := by
  have hc := toNat_lowCarry a0 b0
  have ha := a0.isLt
  have hb := b0.isLt
  rw [addFlags_v_eq_overflow, toInt_wordOfBytes, toInt_wordOfBytes, decide_eq_decide]
  split at hc <;> omega

theorem addFlags_s_pair :
    (addFlags a1 b1 (lowCarry a0 b0)).s = decide ((wordOfBytes a0 a1).toInt + (wordOfBytes b0 b1).toInt < 0) := by
  have hc := toNat_lowCarry a0 b0
  have ha := a0.isLt
  have hb := b0.isLt
  rw [addFlags_s_eq_neg, toInt_wordOfBytes, toInt_wordOfBytes, decide_eq_decide]
  split at hc <;> omega

/-- The flags that the second step of a subtract or compare chain computes. -/
abbrev pairDifferenceFlags : ArithFlags := subCarryFlags a1 b1 (lowBorrow a0 b0) (subFlags a0 b0 false).z

theorem pairDifferenceFlags_c :
    (pairDifferenceFlags a0 a1 b0 b1).c = decide ((wordOfBytes a0 a1).toNat < (wordOfBytes b0 b1).toNat) := by
  have hc := toNat_lowBorrow a0 b0
  have ha := a0.isLt
  have hb := b0.isLt
  refine (subFlags_c_eq_lt _ _ _).trans ?_
  rw [toNat_wordOfBytes, toNat_wordOfBytes, decide_eq_decide]
  split at hc <;> omega

theorem pairDifferenceFlags_v :
    (pairDifferenceFlags a0 a1 b0 b1).v =
      decide ((wordOfBytes a0 a1).toInt - (wordOfBytes b0 b1).toInt < -32768 ∨
        32767 < (wordOfBytes a0 a1).toInt - (wordOfBytes b0 b1).toInt) := by
  have hc := toNat_lowBorrow a0 b0
  have ha := a0.isLt
  have hb := b0.isLt
  refine (subFlags_v_eq_overflow _ _ _).trans ?_
  rw [toInt_wordOfBytes, toInt_wordOfBytes, decide_eq_decide]
  split at hc <;> omega

theorem pairDifferenceFlags_n :
    (pairDifferenceFlags a0 a1 b0 b1).n = (wordOfBytes a0 a1 - wordOfBytes b0 b1).getLsbD 15 := by
  rw [← wordOfBytes_sub, getLsbD_fifteen_wordOfBytes]
  rfl

theorem pairDifferenceFlags_s :
    (pairDifferenceFlags a0 a1 b0 b1).s = decide ((wordOfBytes a0 a1).toInt < (wordOfBytes b0 b1).toInt) := by
  have hc := toNat_lowBorrow a0 b0
  have ha := a0.isLt
  have hb := b0.isLt
  refine (subFlags_s_eq_neg _ _ _).trans ?_
  rw [toInt_wordOfBytes, toInt_wordOfBytes, decide_eq_decide]
  split at hc <;> omega

theorem pairDifferenceFlags_z :
    (pairDifferenceFlags a0 a1 b0 b1).z = decide (wordOfBytes a0 a1 = wordOfBytes b0 b1) := by
  change ((subFlags a1 b1 (lowBorrow a0 b0)).z && (subFlags a0 b0 false).z) = _
  rw [← decide_eq_subFlags_z, ← decide_eq_subCarry_z, Bool.eq_iff_iff]
  have hc := toNat_lowBorrow a0 b0
  have ha0 := a0.isLt
  have hb0 := b0.isLt
  have ha1 := a1.isLt
  have hb1 := b1.isLt
  simp only [Bool.and_eq_true, decide_eq_true_eq, ← BitVec.toNat_inj, toNat_wordOfBytes]
  split at hc <;> omega

theorem differenceFlags_of_sreg {x : Byte} {t : State} (h : t.sreg = putHCNVZS x (pairDifferenceFlags a0 a1 b0 b1)) :
    DifferenceFlags (wordOfBytes a0 a1) (wordOfBytes b0 b1) t := by
  constructor <;> simp only [State.flag, h, getFlag_putHCNVZS]
  case c => exact pairDifferenceFlags_c _ _ _ _
  case v => exact pairDifferenceFlags_v _ _ _ _
  case n => exact pairDifferenceFlags_n _ _ _ _
  case s => exact pairDifferenceFlags_s _ _ _ _
  case z => exact pairDifferenceFlags_z _ _ _ _

end

/-! ## The chains -/

/-- What ADD then ADC computes: the pair, and the flags of its high byte with the carry of its low one. -/
theorem add_adc_chain (d r : Reg) (s : State) (hne : d ≠ nextReg r) :
    ∃ u, exec (.adc (nextReg d) (nextReg r)) (addInto d (s.reg r) false s) = .next u ∧
      u.pair d = s.pair d + s.pair r ∧
      ∃ x, u.sreg = putHCNVZS x (addFlags (s.reg (nextReg d)) (s.reg (nextReg r)) (lowCarry (s.reg d) (s.reg r))) := by
  have hd := nextReg_ne d
  have hc : (addInto d (s.reg r) false s).flag .c = lowCarry (s.reg d) (s.reg r) := getFlag_putHCNVZS _ _ .c
  have hreg : ∀ i, i ≠ d → (addInto d (s.reg r) false s).reg i = s.reg i := fun i hi => by simp [addInto, hi]
  refine ⟨_, rfl, ?_, (addInto d (s.reg r) false s).sreg, ?_⟩
  · rw [State.pair, State.pair, State.pair, ← wordOfBytes_add]
    congr 1
    · rw [addInto, State.reg_writeResult, if_neg hd.symm, reg_addInto]
    · rw [reg_addInto, hreg _ hd, hreg _ hne.symm, hc]
  · simp only [addInto, State.writeResult_sreg] at hreg hc ⊢
    rw [hc, hreg _ hd, hreg _ hne.symm]

/-- What SUB then SBC computes. -/
theorem sub_sbc_chain (d r : Reg) (s : State) (hne : d ≠ nextReg r) :
    ∃ u, exec (.sbc (nextReg d) (nextReg r)) (subInto d (s.reg r) s) = .next u ∧
      u.pair d = s.pair d - s.pair r ∧
      ∃ x, u.sreg = putHCNVZS x
        (pairDifferenceFlags (s.reg d) (s.reg (nextReg d)) (s.reg r) (s.reg (nextReg r))) := by
  have hd := nextReg_ne d
  have hc : (subInto d (s.reg r) s).flag .c = lowBorrow (s.reg d) (s.reg r) := getFlag_putHCNVZS _ _ .c
  have hz : (subInto d (s.reg r) s).flag .z = (subFlags (s.reg d) (s.reg r) false).z := getFlag_putHCNVZS _ _ .z
  have hreg : ∀ i, i ≠ d → (subInto d (s.reg r) s).reg i = s.reg i := fun i hi => by simp [subInto, hi]
  refine ⟨_, rfl, ?_, (subInto d (s.reg r) s).sreg, ?_⟩
  · rw [State.pair, State.pair, State.pair, ← wordOfBytes_sub]
    congr 1
    · rw [subCarryInto, State.reg_writeResult, if_neg hd.symm, reg_subInto]
    · rw [reg_subCarryInto, hreg _ hd, hreg _ hne.symm, hc]
  · rw [subCarryInto, State.writeResult_sreg, hc, hz, hreg _ hd, hreg _ hne.symm]

/-- Settles O30: the low bytes give the carry or borrow, and the high bytes with it give the pair and the flags. -/
theorem multiByteChainsComputeTheWholeValue : Obligations.MultiByteChainsComputeTheWholeValue := by
  intro d r s
  refine ⟨fun hne => ?_, fun hne => ?_, ?_⟩
  · obtain ⟨u, hu, hpair, x, hx⟩ := add_adc_chain d r s hne
    have hflag : ∀ f, u.flag f = _ := fun f => (congrArg (getFlag · f) hx).trans (getFlag_putHCNVZS x _ f)
    refine ⟨_, u, rfl, hu, hpair, (hflag .c).trans (addFlags_c_pair _ _ _ _), ?_,
      (hflag .v).trans (addFlags_v_pair _ _ _ _), (hflag .s).trans (addFlags_s_pair _ _ _ _)⟩
    rw [hflag .n, hpair, State.pair, State.pair, ← wordOfBytes_add, getLsbD_fifteen_wordOfBytes]
    rfl
  · obtain ⟨u, hu, hpair, x, hx⟩ := sub_sbc_chain d r s hne
    exact ⟨_, u, rfl, hu, hpair, differenceFlags_of_sreg _ _ _ _ hx⟩
  · refine ⟨_, _, rfl, rfl, rfl, differenceFlags_of_sreg _ _ _ _ (x := (compareWith d (s.reg r) s).sreg) ?_⟩
    have hc : (compareWith d (s.reg r) s).flag .c = lowBorrow (s.reg d) (s.reg r) := getFlag_putHCNVZS _ _ .c
    have hz : (compareWith d (s.reg r) s).flag .z = (subFlags (s.reg d) (s.reg r) false).z := getFlag_putHCNVZS _ _ .z
    rw [pairDifferenceFlags, ← hc, ← hz]
    rfl

end Sys2Proof.Machine
end

section
/-! # Moves, shifts, bits and MCU control (spec/44_bit_and_bit_test.md, spec/45_mcu_control.md) -/

namespace Sys2Proof.Machine

/-! ## One register written, no flag (R135, R205, R206, R257) -/

theorem setReg_advances (n : Nat) (s : State) (d : Reg) (v : Byte) :
    Advances n { regs := [d] } s ((s.setReg d v).advance n) :=
  ⟨rfl, ((OnlyTouches.refl _ s).setReg (.head _) v).withPc _⟩

theorem toNat_swap (v : Byte) :
    (v.extractLsb' 0 4 ++ v.extractLsb' 4 4 : Byte).toNat = v.toNat / 16 + 16 * (v.toNat % 16) := by
  have hhigh : (v.extractLsb' 4 4).toNat = v.toNat / 16 := by
    have hv := v.isLt
    rw [BitVec.extractLsb'_toNat, Nat.shiftRight_eq_div_pow]
    omega
  have hlow : (v.extractLsb' 0 4).toNat = v.toNat % 16 := by
    rw [BitVec.extractLsb'_toNat]
    rfl
  have hlt := (v.extractLsb' 4 4).isLt
  rw [BitVec.toNat_append, Nat.shiftLeft_eq, Nat.mul_comm, ← Nat.two_pow_add_eq_or_of_lt hlt, hhigh, hlow]
  omega

/-- Settles O28. -/
theorem registerMovesWriteNoFlag : Obligations.RegisterMovesWriteNoFlag := by
  intro d r k s
  refine ⟨⟨_, rfl, setReg_advances 1 s d _, ?_⟩, ⟨_, rfl, setReg_advances 1 s d _, ?_⟩,
    ⟨_, rfl, setReg_advances 1 s d _, ?_⟩, ⟨_, rfl, setReg_advances 1 s d _, ?_⟩⟩ <;>
    rw [State.reg_advance, State.reg_setReg_self]
  exact toNat_swap _

/-! ## Shifts (R250, R251) -/

theorem toNat_shiftLeftResult (a : Byte) (b : Bool) : (shiftLeftResult a b).toNat = (2 * a.toNat + b.toNat) % 256 := by
  rw [← addResult_self, toNat_addResult, Nat.two_mul]

theorem toNat_shiftRightResult (a : Byte) (b : Bool) : (shiftRightResult a b).toNat = a.toNat / 2 + 128 * b.toNat := by
  revert a b; decide +kernel

theorem reg_shiftLeftInto (d : Reg) (b : Bool) (s : State) :
    (shiftLeftInto d b s).reg d = shiftLeftResult (s.reg d) b := by
  simp [shiftLeftInto]

theorem reg_shiftRightInto (d : Reg) (b : Bool) (s : State) :
    (shiftRightInto d b s).reg d = shiftRightResult (s.reg d) b := by
  simp [shiftRightInto]

theorem flag_shiftLeftInto (d : Reg) (b : Bool) (s : State) (f : Flag) :
    (shiftLeftInto d b s).flag f =
      getFlag (putHCNVZS s.sreg (shiftLeftFlags (s.reg d) (shiftLeftResult (s.reg d) b))) f := rfl

theorem flag_shiftRightInto (d : Reg) (b : Bool) (s : State) (f : Flag) :
    (shiftRightInto d b s).flag f = getFlag (putShiftRight s.cfg.shiftWritesS s.sreg
      (shiftRightFlags (s.reg d) (shiftRightResult (s.reg d) b))) f := rfl

theorem shiftLeftInto_writes (d : Reg) (b : Bool) (s : State) :
    Advances 1 { regs := [d], flags := sixFlags } s (shiftLeftInto d b s) ∧
      ((shiftLeftInto d b s).reg d).toNat = (2 * (s.reg d).toNat + b.toNat) % 256 ∧
      ShiftFlags (getBit (s.reg d) 7) ((shiftLeftInto d b s).reg d) (shiftLeftInto d b s) ∧
      (shiftLeftInto d b s).flag .s = ((shiftLeftInto d b s).flag .n ^^ (shiftLeftInto d b s).flag .v) ∧
      (shiftLeftInto d b s).flag .h = getBit (s.reg d) 3 := by
  rw [reg_shiftLeftInto]
  refine ⟨writeResult_advances s d _ _ fun _ => getFlag_putHCNVZS_of_notMem s.sreg _, toNat_shiftLeftResult _ _,
    ?_, ?_, ?_⟩
  · constructor <;> simp only [flag_shiftLeftInto, getFlag_putHCNVZS] <;> rfl
  · exact signed_putHCNVZS _ _
  · simp only [flag_shiftLeftInto, getFlag_putHCNVZS]
    rfl

theorem getFlag_putShiftRight_of_notFive (w : Bool) (x : Byte) (a : ArithFlags) {f : Flag} (hf : f ∉ fiveFlags) :
    getFlag (putShiftRight w x a) f = getFlag x f := by
  refine getFlag_putShiftRight_of_notMem w x a f fun h => hf ?_
  cases w <;> simp_all [fiveFlags]

theorem shiftRightInto_writes (d : Reg) (b : Bool) (s : State) :
    Advances 1 { regs := [d], flags := fiveFlags } s (shiftRightInto d b s) ∧
      ((shiftRightInto d b s).reg d).toNat = (s.reg d).toNat / 2 + 128 * b.toNat ∧
      ShiftFlags (getBit (s.reg d) 0) ((shiftRightInto d b s).reg d) (shiftRightInto d b s) ∧
      (shiftRightInto d b s).flag .s = if s.cfg.shiftWritesS
        then ((shiftRightInto d b s).flag .n ^^ (shiftRightInto d b s).flag .v) else s.flag .s := by
  rw [reg_shiftRightInto]
  refine ⟨writeResult_advances s d _ _ fun _ => getFlag_putShiftRight_of_notFive _ s.sreg _,
    toNat_shiftRightResult _ _, ?_, ?_⟩
  · constructor <;> simp only [flag_shiftRightInto, getFlag_putShiftRight] <;> rfl
  · simp only [flag_shiftRightInto, getFlag_putShiftRight]
    rfl

/-- Settles O51: both instructions are `shiftLeftInto`. -/
theorem leftShiftsWriteResultAndFlags : Obligations.LeftShiftsWriteResultAndFlags := by
  intro d s
  simp only [List.forall_mem_cons]
  exact ⟨⟨_, rfl, shiftLeftInto_writes d _ s⟩, ⟨_, rfl, shiftLeftInto_writes d _ s⟩, List.forall_mem_nil _⟩

/-- Settles O52: the three instructions are `shiftRightInto`. -/
theorem rightShiftsWriteResultAndFlags : Obligations.RightShiftsWriteResultAndFlags := by
  intro d s
  simp only [List.forall_mem_cons]
  exact ⟨⟨_, rfl, shiftRightInto_writes d _ s⟩, ⟨_, rfl, shiftRightInto_writes d _ s⟩,
    ⟨_, rfl, shiftRightInto_writes d _ s⟩, List.forall_mem_nil _⟩

/-! ## Bits (R260 to R279) -/

theorem bst_advances (r : Reg) (b : BitNum) (s : State) :
    Advances 1 { flags := [.t] } s (s.writeFlags (putFlag s.sreg .t (getBit (s.reg r) b))) :=
  writeFlags_advances s _ fun f hf => getFlag_putFlag_of_mem s.sreg _ (.head _) f hf

/-- Settles O54. -/
theorem bitTransfersThroughT : Obligations.BitTransfersThroughT := by
  intro r b s
  refine ⟨⟨_, rfl, bst_advances r b s, ?_⟩, ⟨_, rfl, setReg_advances 1 s r _, fun c => ?_⟩⟩
  · exact (getFlag_putFlag _ .t .t _).trans (if_pos rfl)
  · rw [State.reg_advance, State.reg_setReg_self]
    exact getBit_putBit _ b c _

theorem setSregBit_advances (n : BitNum) (s : State) :
    Advances 1 { flags := allFlags.filter (·.bit == n), inhibit := n == 7 } s (setSregBit n s) where
  pc := rfl
  frame := by
    have hw := (writeFlags_advances (fs := allFlags.filter (·.bit == n)) s _
      (getFlag_putBit_of_notMem s.sreg n true)).frame
    exact { hw with
      inhibit := fun h => by
        have h7 : (n == Flag.bit .i) = false := h
        simp [setSregBit, State.writeFlags, h7] }

theorem clearSregBit_advances (n : BitNum) (s : State) :
    Advances 1 { flags := allFlags.filter (·.bit == n) } s (clearSregBit n s) :=
  writeFlags_advances s _ (getFlag_putBit_of_notMem s.sreg n false)

/-- Settles O55. -/
theorem statusBitInstructionsWriteOneBit : Obligations.StatusBitInstructionsWriteOneBit := by
  intro n s
  refine ⟨⟨_, rfl, setSregBit_advances n s, fun m => getBit_putBit s.sreg n m true, ?_⟩,
    ⟨_, rfl, clearSregBit_advances n s, fun m => getBit_putBit s.sreg n m false⟩⟩
  rintro rfl
  exact Bool.or_true _

theorem flagsOfBit_eq (f : Flag) : allFlags.filter (·.bit == f.bit) = [f] := by cases f <;> rfl

/-- A row that is BSET with the bit of `f`. -/
theorem writesFlag_set {i : Instr} {w : Word} {f : Flag} (henc : encode i = [w]) (hbase : i.base = .bset f.bit)
    (h : ∀ s, exec i s = .next (setSregBit f.bit s)) : WritesFlag i w f true (f.bit == 7) := by
  refine ⟨henc, hbase, fun s => ⟨_, h s, ?_, ?_, fun h7 => ?_⟩⟩
  · have hadv := setSregBit_advances f.bit s
    rwa [flagsOfBit_eq] at hadv
  · exact (getFlag_putFlag _ f f true).trans (if_pos rfl)
  · have h7' : (f.bit == Flag.bit .i) = true := h7
    simp [setSregBit, h7']

/-- A row that is BCLR with the bit of `f`. -/
theorem writesFlag_clear {i : Instr} {w : Word} {f : Flag} (henc : encode i = [w]) (hbase : i.base = .bclr f.bit)
    (h : ∀ s, exec i s = .next (clearSregBit f.bit s)) : WritesFlag i w f false false := by
  refine ⟨henc, hbase, fun s => ⟨_, h s, ?_, ?_, nofun⟩⟩
  · have hadv := clearSregBit_advances f.bit s
    rwa [flagsOfBit_eq] at hadv
  · exact (getFlag_putFlag _ f f false).trans (if_pos rfl)

/-- Settles O56: each row is BSET or BCLR with the bit of its flag. -/
theorem namedFlagInstructionsWriteTheirFlag : Obligations.NamedFlagInstructionsWriteTheirFlag :=
  ⟨writesFlag_set rfl rfl fun _ => rfl, writesFlag_clear rfl rfl fun _ => rfl,
    writesFlag_set rfl rfl fun _ => rfl, writesFlag_clear rfl rfl fun _ => rfl,
    writesFlag_set rfl rfl fun _ => rfl, writesFlag_clear rfl rfl fun _ => rfl,
    writesFlag_set rfl rfl fun _ => rfl, writesFlag_clear rfl rfl fun _ => rfl,
    writesFlag_set rfl rfl fun _ => rfl, writesFlag_clear rfl rfl fun _ => rfl,
    writesFlag_set rfl rfl fun _ => rfl, writesFlag_clear rfl rfl fun _ => rfl,
    writesFlag_set rfl rfl fun _ => rfl, writesFlag_clear rfl rfl fun _ => rfl,
    writesFlag_set rfl rfl fun _ => rfl, writesFlag_clear rfl rfl fun _ => rfl⟩

/-! ## MCU control (R290 to R293) -/

theorem Advances.of_touches {w : Touched} {s t : State} (hw : OnlyTouches w s t) (hpc : t.pc = s.pc) (n : Nat) :
    Advances n w s (t.advance n) :=
  ⟨by rw [State.advance_pc, State.pcAfter, hpc, hw.cfg]; rfl, hw.withPc _⟩

theorem emit_touches (e : PlatformEvent) (s : State) : OnlyTouches { events := true } s (s.emit e) :=
  { OnlyTouches.refl { events := true } s with events := nofun }

theorem stop_touches (s : State) : OnlyTouches { stopped := true } s { s with stopped := true } :=
  { OnlyTouches.refl { stopped := true } s with stopped := nofun }

theorem sleep_touches (s : State) : OnlyTouches { sleeping := true } s { s with sleeping := true } :=
  { OnlyTouches.refl { sleeping := true } s with sleeping := nofun }

theorem advance_advances (n : Nat) (s : State) : Advances n {} s (s.advance n) :=
  .of_touches (OnlyTouches.refl _ s) rfl n

/-- Settles O57. -/
theorem mcuControlByTheParameters : Obligations.McuControlByTheParameters := by
  intro s
  refine ⟨fun h => ?_, fun h => ⟨_, ?_, advance_advances 1 s⟩,
    fun h => ⟨_, ?_, .of_touches (stop_touches s) rfl 1, rfl⟩,
    ⟨_, rfl, advance_advances 1 s⟩, fun h => ⟨_, ?_, advance_advances 1 s⟩,
    fun h => ⟨_, ?_, .of_touches (sleep_touches s) rfl 1, rfl⟩,
    ⟨(s.emit .wdr).advance 1, rfl, .of_touches (emit_touches .wdr s) rfl 1, rfl⟩⟩
  · simp only [exec, execBrk, h]
  · simp only [exec, execBrk, h]
  · simp only [exec, execBrk, h]
  · simp only [exec, execSleep, h]
  · simp only [exec, execSleep, h]

end Sys2Proof.Machine
end

section
/-! # The laws of the shifts and of the bit instructions (spec/44_bit_and_bit_test.md R280) -/

namespace Sys2Proof.Machine

theorem toNat_getBit_seven (a : Byte) : (getBit a 7).toNat = a.toNat / 128 := by
  have ha := a.isLt
  rw [getBit_seven]
  by_cases h : 128 ≤ a.toNat
  · simp only [h, decide_true, Bool.toNat_true]
    omega
  · simp only [h, decide_false, Bool.toNat_false]
    omega

theorem toNat_getBit_zero (a : Byte) : (getBit a 0).toNat = a.toNat % 2 := by
  change (a.getLsbD 0).toNat = _
  rw [BitVec.getLsbD, Nat.testBit_zero]
  rcases Nat.mod_two_eq_zero_or_one a.toNat with h | h <;> simp [h]

theorem flag_c_shiftLeftInto (d : Reg) (b : Bool) (s : State) : (shiftLeftInto d b s).flag .c = getBit (s.reg d) 7 :=
  getFlag_putHCNVZS _ _ .c

theorem flag_c_shiftRightInto (d : Reg) (b : Bool) (s : State) : (shiftRightInto d b s).flag .c = getBit (s.reg d) 0 :=
  getFlag_putShiftRight _ _ _ .c

theorem reg_shiftLeftInto_ne {d i : Reg} (h : i ≠ d) (b : Bool) (s : State) :
    (shiftLeftInto d b s).reg i = s.reg i := by
  simp [shiftLeftInto, h]

theorem reg_shiftRightInto_ne {d i : Reg} (h : i ≠ d) (b : Bool) (s : State) :
    (shiftRightInto d b s).reg i = s.reg i := by
  simp [shiftRightInto, h]

/-- A shift back to the right, with the bit shifted out to the left shifted in again. -/
theorem shiftRightResult_shiftLeftResult (a : Byte) (c : Bool) :
    shiftRightResult (shiftLeftResult a c) (getBit a 7) = a := by
  have ha := a.isLt
  have hc := c.toNat_le
  apply BitVec.eq_of_toNat_eq
  rw [toNat_shiftRightResult, toNat_shiftLeftResult, toNat_getBit_seven]
  omega

theorem shiftLeftResult_shiftRightResult (a : Byte) (c : Bool) :
    shiftLeftResult (shiftRightResult a c) (getBit a 0) = a := by
  have ha := a.isLt
  have hc := c.toNat_le
  apply BitVec.eq_of_toNat_eq
  rw [toNat_shiftLeftResult, toNat_shiftRightResult, toNat_getBit_zero]
  omega

theorem getBit_zero_shiftLeftResult (a : Byte) (c : Bool) : getBit (shiftLeftResult a c) 0 = c := by
  simp [shiftLeftResult]

theorem getBit_seven_shiftRightResult (a : Byte) (c : Bool) : getBit (shiftRightResult a c) 7 = c := by
  simp [shiftRightResult]

/-- R256: ASR halves the signed value, rounding down, and C is the remainder. -/
theorem toInt_shiftRightResult (a : Byte) :
    (shiftRightResult a (getBit a 7)).toInt = a.toInt.fdiv 2 ∧ ((getBit a 0).toNat : Int) = a.toInt.fmod 2 := by
  have ha := a.isLt
  rw [Int.fdiv_eq_ediv_of_nonneg _ (by decide), Int.fmod_eq_emod_of_nonneg _ (by decide)]
  simp only [BitVec.toInt_eq_toNat_cond, toNat_shiftRightResult, toNat_getBit_seven, toNat_getBit_zero]
  omega

/-- LSL of a register and ROL of the next one double the pair. -/
theorem lsl_rol_pair (d : Reg) (s : State) :
    ((shiftLeftInto (nextReg d) ((shiftLeftInto d false s).flag .c) (shiftLeftInto d false s)).pair d).toNat =
      2 * (s.pair d).toNat % 65536 := by
  have hne := nextReg_ne d
  have h0 := (s.reg d).isLt
  have h1 := (s.reg (nextReg d)).isLt
  rw [State.pair, State.pair, toNat_wordOfBytes, toNat_wordOfBytes, reg_shiftLeftInto, reg_shiftLeftInto_ne hne.symm,
    reg_shiftLeftInto, reg_shiftLeftInto_ne hne, flag_c_shiftLeftInto, toNat_shiftLeftResult, toNat_shiftLeftResult,
    toNat_getBit_seven, Bool.toNat_false]
  omega

/-- LSR of the next register and ROR of a register halve the pair. -/
theorem lsr_ror_pair (d : Reg) (s : State) :
    ((shiftRightInto d ((shiftRightInto (nextReg d) false s).flag .c) (shiftRightInto (nextReg d) false s)).pair
      d).toNat = (s.pair d).toNat / 2 := by
  have hne := nextReg_ne d
  have h0 := (s.reg d).isLt
  have h1 := (s.reg (nextReg d)).isLt
  rw [State.pair, State.pair, toNat_wordOfBytes, toNat_wordOfBytes, reg_shiftRightInto, reg_shiftRightInto_ne hne,
    reg_shiftRightInto, reg_shiftRightInto_ne hne.symm, flag_c_shiftRightInto, toNat_shiftRightResult,
    toNat_shiftRightResult, toNat_getBit_zero, Bool.toNat_false]
  omega

theorem swap_swap (v : Byte) :
    ((v.extractLsb' 0 4 ++ v.extractLsb' 4 4 : Byte).extractLsb' 0 4 ++
      (v.extractLsb' 0 4 ++ v.extractLsb' 4 4 : Byte).extractLsb' 4 4 : Byte) = v := by
  have hv := v.isLt
  apply BitVec.eq_of_toNat_eq
  rw [toNat_swap, toNat_swap]
  omega

theorem shift_laws (d : Reg) (s : State) :
    (∃ t, exec (.lsl d) s = .next t ∧
      (t.reg d).toNat = 2 * (s.reg d).toNat % 256 ∧ (t.flag .c).toNat = 2 * (s.reg d).toNat / 256) ∧
    (∃ t, exec (.lsr d) s = .next t ∧
      (t.reg d).toNat = (s.reg d).toNat / 2 ∧ (t.flag .c).toNat = (s.reg d).toNat % 2) ∧
    (∃ t, exec (.asr d) s = .next t ∧
      (t.reg d).toInt = (s.reg d).toInt.fdiv 2 ∧ ((t.flag .c).toNat : Int) = (s.reg d).toInt.fmod 2) := by
  have ha := (s.reg d).isLt
  refine ⟨⟨_, rfl, ?_, ?_⟩, ⟨_, rfl, ?_, ?_⟩, ⟨_, rfl, ?_⟩⟩
  · rw [reg_shiftLeftInto, toNat_shiftLeftResult, Bool.toNat_false, Nat.add_zero]
  · rw [flag_c_shiftLeftInto, toNat_getBit_seven]
    omega
  · rw [reg_shiftRightInto, toNat_shiftRightResult, Bool.toNat_false, Nat.mul_zero, Nat.add_zero]
  · rw [flag_c_shiftRightInto, toNat_getBit_zero]
  · rw [reg_shiftRightInto, flag_c_shiftRightInto]
    exact toInt_shiftRightResult (s.reg d)

theorem rotate_laws (d : Reg) (s : State) :
    (∃ t u, exec (.rol d) s = .next t ∧ exec (.ror d) t = .next u ∧ u.reg d = s.reg d ∧ u.flag .c = s.flag .c) ∧
    (∃ t u, exec (.ror d) s = .next t ∧ exec (.rol d) t = .next u ∧ u.reg d = s.reg d ∧ u.flag .c = s.flag .c) := by
  refine ⟨⟨_, _, rfl, rfl, ?_, ?_⟩, ⟨_, _, rfl, rfl, ?_, ?_⟩⟩
  · rw [reg_shiftRightInto, reg_shiftLeftInto, flag_c_shiftLeftInto, shiftRightResult_shiftLeftResult]
  · rw [flag_c_shiftRightInto, reg_shiftLeftInto, getBit_zero_shiftLeftResult]
  · rw [reg_shiftLeftInto, reg_shiftRightInto, flag_c_shiftRightInto, shiftLeftResult_shiftRightResult]
  · rw [flag_c_shiftLeftInto, reg_shiftRightInto, getBit_seven_shiftRightResult]

/-- BST then BLD copies one bit, and changes nothing else but T. -/
theorem bst_bld_copies (d r : Reg) (b : BitNum) (s : State) :
    ∃ t u, exec (.bst r b) s = .next t ∧ exec (.bld d b) t = .next u ∧
      OnlyTouches { regs := [d], flags := [.t] } s u ∧
      ∀ c : BitNum, getBit (u.reg d) c = if c = b then getBit (s.reg r) b else getBit (s.reg d) c := by
  refine ⟨_, _, rfl, rfl, ?_, fun c => ?_⟩
  · have hbst := (writeFlags_advances (fs := [.t]) s _ (getFlag_putFlag_of_mem s.sreg (getBit (s.reg r) b)
      (.head _))).frame
    exact ((hbst.mono (w' := { regs := [d], flags := [.t] }) nofun (fun _ h => h) nofun nofun id id id id id
      id).setReg (.head _) _).withPc _
  · have ht : (s.writeFlags (putFlag s.sreg .t (getBit (s.reg r) b))).flag .t = getBit (s.reg r) b :=
      (getFlag_putFlag _ .t .t _).trans (if_pos rfl)
    rw [State.reg_advance, State.reg_setReg_self, getBit_putBit, ht]
    rfl

/-- Settles O53. -/
theorem shiftAndBitLaws : Obligations.ShiftAndBitLaws := by
  refine ⟨fun d s => ?_, bst_bld_copies, fun n s => ⟨_, _, rfl, rfl, fun m => ?_⟩⟩
  · obtain ⟨hlsl, hlsr, hasr⟩ := shift_laws d s
    obtain ⟨hrol, hror⟩ := rotate_laws d s
    refine ⟨hlsl, hlsr, hasr, hrol, hror, ⟨_, _, rfl, rfl, lsl_rol_pair d s⟩, ⟨_, _, rfl, rfl, lsr_ror_pair d s⟩,
      ⟨_, _, rfl, rfl, ?_⟩⟩
    rw [State.reg_advance, State.reg_setReg_self, State.reg_advance, State.reg_setReg_self]
    exact swap_swap (s.reg d)
  · refine (getBit_putBit _ n m false).trans ?_
    split
    · rfl
    · exact (getBit_putBit s.sreg n m true).trans (if_neg ‹_›)

end Sys2Proof.Machine
end

section
/-! # Jumps, branches and skips (spec/42_branch.md) -/

namespace Sys2Proof.Machine

/-! ## Jumps and branches (R150, R151, R185) -/

theorem withPc_touches (s : State) (p : PcWord) : OnlyTouches {} s { s with pc := p } := (OnlyTouches.refl _ s).withPc p

theorem toNat_relTarget {s : State} (h : s.cfg.pcBits ≤ 22) (k : Int) :
    ((s.relTarget k).toNat : Int) = ((s.pc.toNat : Int) + 1 + k) % ((2 ^ s.cfg.pcBits : Nat) : Int) :=
  toNat_truncPc h _

theorem toNat_indirectTarget {s : State} (h : s.cfg.pcBits ≤ 22) :
    s.indirectTarget.toNat = (s.pointer .z).toNat % 2 ^ s.cfg.pcBits := toNat_truncPc_natCast h _

/-- Settles O31. -/
theorem jumpsGoToTheirTarget : Obligations.JumpsGoToTheirTarget := fun _ s h =>
  ⟨⟨_, rfl, withPc_touches s _, toNat_relTarget h _⟩, ⟨_, rfl, withPc_touches s _, toNat_indirectTarget h⟩⟩

/-- An instruction that is `branchIf` branches as R185 says. -/
theorem branchesIf_of_exec_eq {i : BitVec 7 → Instr} {c : State → Bool}
    (h : ∀ k s, exec (i k) s = .next (branchIf (c s) k s)) : BranchesIf i c := by
  intro k s h22
  refine ⟨_, h k s, by rw [branchIf_eq]; exact withPc_touches s _, ?_⟩
  rw [pc_branchIf]
  split
  · exact toNat_relTarget h22 _
  · exact toNat_truncPc h22 _

/-- Settles O32. -/
theorem branchOnAStatusBit : Obligations.BranchOnAStatusBit := fun _ =>
  ⟨branchesIf_of_exec_eq fun _ _ => rfl, branchesIf_of_exec_eq fun _ _ => rfl⟩

/-- Settles O33: each of the eighteen is `branchIf` on its flag. -/
theorem namedBranchesTestTheirFlag : Obligations.NamedBranchesTestTheirFlag :=
  ⟨branchesIf_of_exec_eq fun _ _ => rfl, branchesIf_of_exec_eq fun _ _ => rfl, branchesIf_of_exec_eq fun _ _ => rfl,
    branchesIf_of_exec_eq fun _ _ => rfl, branchesIf_of_exec_eq fun _ _ => rfl, branchesIf_of_exec_eq fun _ _ => rfl,
    branchesIf_of_exec_eq fun _ _ => rfl, branchesIf_of_exec_eq fun _ _ => rfl, branchesIf_of_exec_eq fun _ _ => rfl,
    branchesIf_of_exec_eq fun _ _ => rfl, branchesIf_of_exec_eq fun _ _ => rfl, branchesIf_of_exec_eq fun _ _ => rfl,
    branchesIf_of_exec_eq fun _ _ => rfl, branchesIf_of_exec_eq fun _ _ => rfl, branchesIf_of_exec_eq fun _ _ => rfl,
    branchesIf_of_exec_eq fun _ _ => rfl, branchesIf_of_exec_eq fun _ _ => rfl, branchesIf_of_exec_eq fun _ _ => rfl⟩

/-! ## Skips (R184) -/

theorem skipIf_legal {s : State} {w : Word} (hw : progWord s (s.pcAfter 1) = .ok w) (hl : isLegalWord w = true) :
    skipIf true s = .ok (s.advance (if w &&& 0xFC0F = 0x9000 then 3 else 2)) := by
  simp only [skipIf, hw, hl, if_true, isTwoWord, beq_iff_eq]

theorem skipIf_illegal {s : State} {w : Word} (hw : progWord s (s.pcAfter 1) = .ok w) (hl : isLegalWord w = false) :
    skipIf true s = .error (.illegalOpcode (s.pcAfter 1) w) := by
  simp [skipIf, hw, hl]

theorem skipIf_outOfRange {s : State} (h : s.cfg.flashWords ≤ (s.pcAfter 1).toNat) :
    skipIf true s = .error (.fetchOutOfRange (s.pcAfter 1)) := by
  simp [skipIf, progWord_of_le h]

/-- An instruction that is `skipIf` after a read, `u` being the state after that read, skips as R184 says. -/
theorem skipsIf_of_exec_eq {i : Instr} {ok c : State → Bool} {w : State → Touched} {es : State → List PlatformEvent}
    (u : State → State) (hexec : ∀ s, ok s = true → exec i s = conclude (skipIf (c s) (u s)))
    (hkeep : ∀ s, Keeps s (u s)) (hframe : ∀ s, OnlyTouches (w s) s (u s)) (hread : ∀ s, ReadsOnly (es s) s (u s)) :
    SkipsIf i ok c w es := by
  intro s hok
  have hpc (n : Nat) : (u s).pcAfter n = s.pcAfter n := by rw [State.pcAfter, (hkeep s).pc, (hkeep s).cfg]; rfl
  have hword (p : PcWord) : progWord (u s) p = progWord s p := progWord_congr (hkeep s).cfg (hkeep s).flash p
  have hadv (n : Nat) : Advances n (w s) s ((u s).advance n) := ⟨hpc n, (hframe s).withPc _⟩
  rw [hexec s hok]
  refine ⟨fun hc => ?_, fun hc w1 hw hl => ?_, fun hc w1 hw hl => ?_, fun hc hlt => ?_⟩ <;> rw [hc]
  · exact ⟨_, rfl, hadv 1, hread s⟩
  · rw [skipIf_legal (by rw [hword, hpc]; exact hw) hl]
    exact ⟨_, rfl, hadv _, hread s⟩
  · rw [skipIf_illegal (by rw [hword, hpc]; exact hw) hl, hpc]
    rfl
  · rw [skipIf_outOfRange (by rw [hpc, (hkeep s).cfg]; exact hlt), hpc]
    rfl

theorem readsOnly_nil (s : State) : ReadsOnly [] s s := ⟨rfl, rfl⟩

/-- CPSE, SBRC and SBRS read nothing beside registers. -/
theorem skipsIf_of_registers {i : Instr} {c : State → Bool} (h : ∀ s, exec i s = conclude (skipIf (c s) s)) :
    SkipsIf i (fun _ => true) c (fun _ => {}) (fun _ => []) :=
  skipsIf_of_exec_eq id (fun s _ => h s) Keeps.refl (OnlyTouches.refl _) readsOnly_nil

/-- SBIC and SBIS read one I/O location. -/
theorem skipsIf_of_ioRead {i : Instr} {a : IoAddr} {c : State → Bool}
    (h : ∀ s, deviceRaises s.cfg s.events a = false → exec i s = conclude (skipIf (c s) (ioAnswer a s).2)) :
    SkipsIf i (fun s => !deviceRaises s.cfg s.events a) c (fun s => ioReadTouches s a [])
      (fun s => ioReadEvents s.cfg a) :=
  skipsIf_of_exec_eq (fun s => (ioAnswer a s).2) (fun s hs => h s (by simpa using hs)) (ioAnswer_keeps a)
    (ioAnswer_touches a) (ioAnswer_reads a)

theorem ioRead_answers {a : IoAddr} {s : State} (h : deviceRaises s.cfg s.events a = false) :
    ioRead a s = .ok (ioAnswer a s) := ioRead_ok_iff.2 ⟨h, rfl⟩

theorem ioRead_raises {a : IoAddr} {s : State} (h : deviceRaises s.cfg s.events a = true) :
    ioRead a s = .error (.deviceRaised (.ioRead a)) := if_pos h

/-- Settles O34: the five are `skipIf`, SBIC and SBIS after the one read. -/
theorem skipsPassTheNextInstruction : Obligations.SkipsPassTheNextInstruction := by
  intro d r a b
  refine ⟨skipsIf_of_registers fun _ => rfl, skipsIf_of_registers fun _ => rfl, skipsIf_of_registers fun _ => rfl,
    skipsIf_of_ioRead fun s h => ?_, skipsIf_of_ioRead fun s h => ?_, fun s h i hi => ?_⟩
  · simp only [exec, execSbic, ioRead_answers h]
    rfl
  · simp only [exec, execSbis, ioRead_answers h]
    rfl
  · simp only [List.mem_cons, List.not_mem_nil, or_false] at hi
    rcases hi with rfl | rfl
    · simp only [exec, execSbic, ioRead_raises h]
    · simp only [exec, execSbis, ioRead_raises h]

end Sys2Proof.Machine
end

section
/-! # LPM and the I/O space (spec/43_data_transfer.md section 5, spec/44_bit_and_bit_test.md section 3) -/

namespace Sys2Proof.Machine

/-! ## LPM (R59, R231) -/

theorem toNat_lowByte (w : Word) : (lowByte w).toNat = w.toNat % 256 := BitVec.extractLsb'_toNat 0 8 w

theorem toNat_highByte (w : Word) : (highByte w).toNat = w.toNat / 256 := by
  have hw := w.isLt
  rw [highByte, BitVec.extractLsb'_toNat, Nat.shiftRight_eq_div_pow]
  omega

/-- R59: the word address of a byte address. -/
theorem progWordAddress (z : Word) : (z.extractLsb' 1 15).setWidth 22 = BitVec.ofNat 22 (z.toNat / 2) := by
  have hz := z.isLt
  apply BitVec.eq_of_toNat_eq
  rw [BitVec.toNat_setWidth, BitVec.extractLsb'_toNat, Nat.shiftRight_eq_div_pow, BitVec.toNat_ofNat]
  omega

theorem getLsbD_zero_eq_odd (z : Word) : z.getLsbD 0 = !decide (z.toNat % 2 = 0) := by
  rw [BitVec.getLsbD, Nat.testBit_zero]
  rcases Nat.mod_two_eq_zero_or_one z.toNat with h | h <;> simp [h]

theorem toNat_progAddress {z : Word} : (BitVec.ofNat 22 (z.toNat / 2)).toNat = z.toNat / 2 := by
  have hz := z.isLt
  rw [BitVec.toNat_ofNat]
  omega

/-- Settles O46: the word at `Z[15:1]` is read, and `Z[0]` picks its byte. -/
theorem lpmReadsAProgramByte : Obligations.LpmReadsAProgramByte := by
  intro s
  refine ⟨fun h => ?_, fun h => ?_⟩
  · obtain ⟨p, hp⟩ : ∃ p, progWord s (BitVec.ofNat 22 ((s.pointer .z).toNat / 2)) = .ok p :=
      ⟨_, progWord_of_lt (by rwa [toNat_progAddress])⟩
    refine ⟨_, p, hp, by simp only [exec, execLpm, progByte, progWordAddress, hp]; rfl, setReg_advances 1 s 0 _, ?_⟩
    rw [State.reg_advance, State.reg_setReg_self, getLsbD_zero_eq_odd]
    split <;> split <;> simp_all [toNat_lowByte, toNat_highByte]
  · have hp : progWord s (BitVec.ofNat 22 ((s.pointer .z).toNat / 2)) = .error (.fetchOutOfRange _) :=
      progWord_of_le (by rwa [toNat_progAddress])
    simp only [exec, execLpm, progByte, progWordAddress, hp]

/-! ## IN and OUT (R232, R233) -/

/-- Nothing more is touched with a register beside. -/
theorem OnlyTouches.withRegs {w : Touched} {s t : State} (h : OnlyTouches w s t) {rs : List Reg}
    (hr : ∀ i ∈ w.regs, i ∈ rs) : OnlyTouches { w with regs := rs } s t :=
  { h with regs := fun i hi => h.regs i fun hw => hi (hr i hw) }

theorem ioWrite_stores {a : IoAddr} {v : Byte} {s : State} (h : deviceRaises s.cfg s.events a = false) :
    ioWrite a v s = .ok (ioStore a v s) := ioWrite_ok_iff.2 ⟨h, rfl⟩

theorem ioWrite_raises {a : IoAddr} {v : Byte} {s : State} (h : deviceRaises s.cfg s.events a = true) :
    ioWrite a v s = .error (.deviceRaised (.ioWrite a v)) := if_pos h

/-- R307: what a write of SREG as a byte does to `irq_inhibit`. -/
theorem inhibitAfter_writeSreg (v : Byte) (s : State) : InhibitAfterSregWrite v s (writeSreg v s) := by
  unfold InhibitAfterSregWrite writeSreg
  cases hi : s.flag .i <;> cases hv : getFlag v .i <;> simp
  cases s.cfg.sregStoreIDelay
  · rfl
  · rfl
  · cases Config.freeBit s.draws <;> simp

/-- R56: a write of an I/O location is found there. -/
theorem ioWritten_ioStore (a : IoAddr) (v : Byte) (s : State) : IoWritten a v s (ioStore a v s) := by
  unfold IoWritten ioStore
  cases ioPlace s.cfg a with
  | sreg => exact ⟨writeSreg_sreg v s, inhibitAfter_writeSreg v s⟩
  | spl => exact ⟨lowByte_wordOfBytes _ _, highByte_wordOfBytes _ _⟩
  | sph =>
    simp only [State.setSpHigh]
    cases s.cfg.spWidth
    · rfl
    · exact ⟨highByte_wordOfBytes _ _, lowByte_wordOfBytes _ _⟩
  | device =>
    cases s.cfg.ioDevice
    · exact Vector.getElem_set_self a.isLt
    · rfl

theorem ioPlace_eq_device_iff {cfg : Config} {a : IoAddr} :
    ioPlace cfg a = .device ↔ a.val ≠ cfg.ioSreg ∧ a.val ≠ cfg.ioSpl ∧ a.val ≠ cfg.ioSph := by
  unfold ioPlace
  split_ifs with h1 h2 h3 <;> simp_all

theorem deviceRaises_eq_true_iff {cfg : Config} {events : List PlatformEvent} {a : IoAddr} :
    deviceRaises cfg events a = true ↔ ioPlace cfg a = .device ∧
      cfg.ioDevice = .platform (some (events.countP PlatformEvent.isDeviceAccess)) := by
  unfold deviceRaises
  split
  next hp hd => rw [hp, hd, beq_iff_eq, eq_comm]; simp
  next h => exact ⟨nofun, fun ⟨hp, hd⟩ => absurd hd (h _ hp)⟩

/-- R162, R232, R233: which accesses raise (log 33). -/
theorem deviceRaises_iff {cfg : Config} {events : List PlatformEvent} {a : IoAddr} :
    deviceRaises cfg events a = true ↔
      a.val ≠ cfg.ioSreg ∧ a.val ≠ cfg.ioSpl ∧ a.val ≠ cfg.ioSph ∧
      cfg.ioDevice = .platform (some (events.countP PlatformEvent.isDeviceAccess)) := by
  rw [deviceRaises_eq_true_iff, ioPlace_eq_device_iff, and_assoc, and_assoc]

theorem ioPlace_of_val_spl {cfg : Config} (hwf : cfg.WF) {a : IoAddr} (ha : a.val = cfg.ioSpl) :
    ioPlace cfg a = .spl := by
  rw [← ioPlace_spl hwf (ha ▸ a.isLt)]
  exact congrArg _ (Fin.ext ha)

theorem ioPlace_of_val_sph {cfg : Config} (hwf : cfg.WF) {a : IoAddr} (ha : a.val = cfg.ioSph) :
    ioPlace cfg a = .sph := by
  rw [← ioPlace_sph hwf (ha ▸ a.isLt)]
  exact congrArg _ (Fin.ext ha)

/-- R55: what the three locations of the core answer. -/
theorem ioAnswer_core (a : IoAddr) (s : State) :
    (a.val = s.cfg.ioSreg → (ioAnswer a s).1 = s.sreg) ∧
    (s.cfg.WF → a.val = s.cfg.ioSpl → (ioAnswer a s).1 = lowByte s.sp) ∧
    (s.cfg.WF → a.val = s.cfg.ioSph → (ioAnswer a s).1 = s.spHigh) := by
  refine ⟨fun ha => ?_, fun hwf ha => ?_, fun hwf ha => ?_⟩
  · have hp : ioPlace s.cfg a = .sreg := if_pos ha
    simp only [ioAnswer, hp]
  · have hp : ioPlace s.cfg a = .spl := ioPlace_of_val_spl hwf ha
    simp only [ioAnswer, hp]
  · have hp : ioPlace s.cfg a = .sph := ioPlace_of_val_sph hwf ha
    simp only [ioAnswer, hp]

theorem in_reads (d : Reg) (a : IoAddr) (s : State) :
    Advances 1 (ioReadTouches s a [d]) s (((ioAnswer a s).2.setReg d (ioAnswer a s).1).advance 1) ∧
      ReadsOnly (ioReadEvents s.cfg a) s (((ioAnswer a s).2.setReg d (ioAnswer a s).1).advance 1) := by
  refine ⟨.of_touches (t := (ioAnswer a s).2.setReg d (ioAnswer a s).1) ?_ (ioAnswer_keeps a s).pc 1,
    ioAnswer_reads a s⟩
  exact ((ioAnswer_touches a s).withRegs (rs := [d]) nofun).setReg (.head _) _

/-- Settles O47. -/
theorem inAndOutMoveOneIoByte : Obligations.InAndOutMoveOneIoByte := by
  intro d a s
  refine ⟨fun h => ⟨?_, ?_⟩, fun h => ⟨?_, ?_⟩, deviceRaises_iff⟩
  · obtain ⟨hadv, hread⟩ := in_reads d a s
    obtain ⟨hsreg, hspl, hsph⟩ := ioAnswer_core a s
    have hreg : (((ioAnswer a s).2.setReg d (ioAnswer a s).1).advance 1).reg d = (ioAnswer a s).1 :=
      State.reg_setReg_self _ d _
    refine ⟨_, by simp only [exec, execInp, ioRead_answers h], hadv, hreg, fun v hv => ?_, hread,
      fun ha => hreg.trans (hsreg ha), fun hwf ha => hreg.trans (hspl hwf ha), fun hwf ha hw => ?_, fun hwf ha hw => ?_⟩
    · rw [hreg, ioAnswer_of_ioByte hv]
    · rw [hreg, hsph hwf ha, State.spHigh, hw]
    · rw [hreg, hsph hwf ha, State.spHigh, hw]
  · refine ⟨(ioStore a (s.reg d) s).advance 1, by simp only [exec, execOut, ioWrite_stores h, concludeAfter], ?_,
      ioWritten_ioStore a (s.reg d) s⟩
    exact .of_touches (ioStore_touches a (s.reg d) s) (ioStore_keeps a (s.reg d) s).pc 1
  · simp only [exec, execInp, ioRead_raises h]
  · simp only [exec, execOut, ioWrite_raises h, concludeAfter]

/-! ## SBI and CBI (R57, R258, R259) -/

/-- An instruction that writes the bit `v` of an I/O location. -/
theorem exec_ioBit {i : Instr} {a : IoLow} {b : BitNum} {v : Bool} {s : State} (hwf : s.cfg.WF)
    (h : exec i s = concludeAfter 1 (ioBitWrite a b v s)) :
    (s.cfg.ioDevice = .plainStorage →
      ∃ t, exec i s = .next t ∧ Advances 1 { io := [ioOfLow a] } s t ∧
        ∀ c : BitNum, t.io[(ioOfLow a).val].getLsbD c.val =
          if c = b then v else s.io[(ioOfLow a).val].getLsbD c.val) ∧
    (s.cfg.ioDevice ≠ .plainStorage → deviceRaises s.cfg s.events (ioOfLow a) = false →
      ∃ t, exec i s = .next t ∧ Advances 1 { events := true } s t ∧ t.events = .ioBitWrite a b v :: s.events) ∧
    (deviceRaises s.cfg s.events (ioOfLow a) = true → exec i s = .fault (.deviceRaised (.ioBitWrite a b v))) := by
  have hp := ioPlace_low hwf a
  rw [h]
  refine ⟨fun hd => ?_, fun hd hr => ?_, fun hr => ?_⟩
  · have hr : deviceRaises s.cfg s.events (ioOfLow a) = false := by simp [deviceRaises, hp, hd]
    have hstore := ioStore_touches (ioOfLow a) (putBit s.io[(ioOfLow a).val] b v) s
    simp only [ioWriteTouches, ioStore, hp, hd] at hstore
    refine ⟨_, concludeAfter_eq_next.2 ⟨_, ioBitWrite_ok_iff.2 ⟨hr, rfl⟩, rfl⟩, ?_, fun c => ?_⟩ <;>
      simp only [ioBitStore, ioStore, ioAnswer, hp, hd]
    · exact .of_touches hstore rfl 1
    · simp only [State.advance_io, Vector.getElem_set_self]
      exact getBit_putBit _ b c v
  · cases hd' : s.cfg.ioDevice with
    | plainStorage => exact absurd hd' hd
    | platform n =>
      refine ⟨_, concludeAfter_eq_next.2 ⟨_, ioBitWrite_ok_iff.2 ⟨hr, rfl⟩, rfl⟩, ?_, ?_⟩ <;>
        simp only [ioBitStore, hp, hd']
      · exact .of_touches (emit_touches (.ioBitWrite a b v) s) rfl 1
      · rfl
  · rw [ioBitWrite, if_pos hr]
    rfl

/-- Settles O48. -/
theorem ioBitInstructionsChangeOneBit : Obligations.IoBitInstructionsChangeOneBit := by
  intro a b s hwf
  simp only [List.forall_mem_cons]
  exact ⟨exec_ioBit hwf rfl, exec_ioBit hwf rfl, List.forall_mem_nil _⟩

end Sys2Proof.Machine
end

section
/-! # Loads and stores (spec/43_data_transfer.md sections 1, 3 and 4) -/

namespace Sys2Proof.Machine

variable {a : Word} {d r : Reg} {m : PointerMove} {p : Pointer} {s t u : State} {v : Byte} {w0 : Word} {f : Fault}

/-! ## What a load, a store and the pointer they move answer -/

theorem concludeAfter_eq_fault {n : Nat} {e : Except Fault State} : concludeAfter n e = .fault f ↔ e = .error f := by
  cases e <;> simp [concludeAfter]

theorem loadFrom_error_iff : loadFrom a d s = .error f ↔ memRead a s = .error f := by
  unfold loadFrom
  cases memRead a s <;> simp

/-- R204: the two cases, as the model tests them. -/
theorem isUndefinedForm_iff : isUndefinedForm s.cfg p r a = true ↔ MovingFormUndefined p r a s := by
  simp [isUndefinedForm, MovingFormUndefined, Pointer.holds, Pointer.regs]

theorem loadMoving_of_defined (h : ¬MovingFormUndefined p d (m.address (s.pointer p)) s) :
    loadMoving m p d w0 s =
      (loadFrom (m.address (s.pointer p)) d s).map (·.setPointer p (m.after (s.pointer p))) := by
  rw [loadMoving, if_neg (isUndefinedForm_iff.not.2 h)]
  cases loadFrom (m.address (s.pointer p)) d s <;> rfl

theorem storeMoving_of_defined (h : ¬MovingFormUndefined p r (m.address (s.pointer p)) s) :
    storeMoving m p r w0 s =
      (storeTo (m.address (s.pointer p)) r s).map (·.setPointer p (m.after (s.pointer p))) := by
  rw [storeMoving, if_neg (isUndefinedForm_iff.not.2 h)]
  cases storeTo (m.address (s.pointer p)) r s <;> rfl

theorem loadMoving_of_undefined (h : MovingFormUndefined p d (m.address (s.pointer p)) s) :
    loadMoving m p d w0 s = .error (.undefinedForm s.pc (some w0)) := if_pos (isUndefinedForm_iff.2 h)

theorem storeMoving_of_undefined (h : MovingFormUndefined p r (m.address (s.pointer p)) s) :
    storeMoving m p r w0 s = .error (.undefinedForm s.pc (some w0)) := if_pos (isUndefinedForm_iff.2 h)

theorem reg_setPointer_of_notMem (h : d ∉ p.regs) (x : Word) : (t.setPointer p x).reg d = t.reg d := by
  obtain ⟨hlow, hhigh⟩ : d ≠ p.low ∧ d ≠ nextReg p.low := by simpa [Pointer.regs] using h
  rw [State.setPointer, State.reg_setPair, if_neg hhigh, if_neg hlow]

theorem pointer_setPointer (x : Word) : (t.setPointer p x).pointer p = x := State.pair_setPair t p.low x

theorem OnlyTouches.setPointer {w : Touched} (h : OnlyTouches w s t) (hp : ∀ i ∈ p.regs, i ∈ w.regs) (x : Word) :
    OnlyTouches w s (t.setPointer p x) :=
  (h.setReg (hp _ (.head _)) _).setReg (hp _ (.tail _ (.head _))) _

/-- R203: a displaced address is a sum modulo 65536. -/
theorem displaced_eq_ofNat (q : BitVec 6) : s.displaced p q = BitVec.ofNat 16 ((s.pair p.low).toNat + q.toNat) := by
  have hq := q.isLt
  apply BitVec.eq_of_toNat_eq
  rw [State.displaced, State.pointer, BitVec.toNat_add, BitVec.toNat_setWidth, BitVec.toNat_ofNat]
  omega

/-! ## Loads (R200, R201) -/

theorem Loaded.of_memRead (hm : memRead a s = .ok (v, u)) (hd : t.reg d = v) (he : t.events = u.events) :
    Loaded a d s t := by
  refine ⟨⟨v, u, hm, hd⟩, fun x hx => ?_, he.trans (memRead_events hm)⟩
  rw [memRead_of_dataByte hx] at hm
  cases hm
  exact hd

/-- R200: an instruction that is `loadFrom` loads plainly. -/
theorem loadsPlainly_of_exec_eq {i : Instr} {n : Nat} {a : State → Word}
    (h : ∀ s, exec i s = concludeAfter n (loadFrom (a s) d s)) : LoadsPlainly i n a d := by
  intro s
  refine ⟨fun hc => ?_, .of_memRead fun f hf => ?_⟩
  · obtain ⟨⟨v, u⟩, hm⟩ := (memRead_ok_iff (a s) s).2 hc
    have hframe : OnlyTouches (loadTouches s (a s) [d]) s u := (memRead_touches hm).withRegs nofun
    refine ⟨(u.setReg d v).advance n, ?_, ?_, ?_⟩
    · rw [h s, concludeAfter_eq_next]
      exact ⟨_, loadFrom_ok_iff.2 ⟨v, u, hm, rfl⟩, rfl⟩
    · exact .of_touches (hframe.setReg (.head _) v) (memRead_keeps hm).pc n
    · exact .of_memRead hm (State.reg_setReg_self u d v) rfl
  · rw [h s, concludeAfter_eq_fault, loadFrom_error_iff, hf]

/-- Settles O41. -/
theorem plainLoadsReadTheDataSpace : Obligations.PlainLoadsReadTheDataSpace := fun _ _ _ =>
  ⟨loadsPlainly_of_exec_eq fun _ => rfl, loadsPlainly_of_exec_eq fun _ => rfl,
    loadsPlainly_of_exec_eq fun _ => rfl, loadsPlainly_of_exec_eq fun _ => rfl,
    loadsPlainly_of_exec_eq fun _ => by rw [exec, execLddY, displaced_eq_ofNat]; rfl,
    loadsPlainly_of_exec_eq fun _ => by rw [exec, execLddZ, displaced_eq_ofNat]; rfl⟩

/-- R201: an instruction that is `loadMoving` loads and moves its pointer. -/
theorem loadsMoving_of_exec_eq {i : Instr} (h : ∀ s, exec i s = concludeAfter 1 (loadMoving m p d w0 s)) :
    LoadsMoving i m p d := by
  intro s hdef
  have hd : d ∉ p.regs := fun hd => hdef (.inl hd)
  refine ⟨fun hc => ?_, .of_memRead fun f hf => ?_⟩ <;> rw [h s, loadMoving_of_defined hdef]
  · obtain ⟨⟨v, u⟩, hm⟩ := (memRead_ok_iff _ s).2 hc
    have hframe : OnlyTouches (loadTouches s (m.address (s.pointer p)) (d :: p.regs)) s u :=
      (memRead_touches hm).withRegs nofun
    refine ⟨((u.setReg d v).setPointer p (m.after (s.pointer p))).advance 1, ?_, ?_, ?_, pointer_setPointer _⟩
    · rw [loadFrom_ok_iff.2 ⟨v, u, hm, rfl⟩]
      rfl
    · exact .of_touches ((hframe.setReg (.head _) v).setPointer (fun _ => .tail d) _) (memRead_keeps hm).pc 1
    · exact .of_memRead hm ((reg_setPointer_of_notMem hd _).trans (State.reg_setReg_self u d v)) rfl
  · rw [loadFrom_error_iff.2 hf]
    rfl

/-- Settles O42. -/
theorem movingLoadsReadAndMoveThePointer : Obligations.MovingLoadsReadAndMoveThePointer := fun _ =>
  ⟨loadsMoving_of_exec_eq fun _ => rfl, loadsMoving_of_exec_eq fun _ => rfl, loadsMoving_of_exec_eq fun _ => rfl,
    loadsMoving_of_exec_eq fun _ => rfl, loadsMoving_of_exec_eq fun _ => rfl, loadsMoving_of_exec_eq fun _ => rfl⟩

/-! ## Stores (R200, R201) -/

/-- R53: a store is found where it went. -/
theorem stored_memWrite (h : memWrite a v s = .ok t) : Stored a v s t := by
  unfold memWrite at h
  unfold Stored
  cases hr : route s.cfg a <;> simp only [hr] at h ⊢
  case reg i =>
    cases h
    exact State.reg_setReg_self s i v
  case io p =>
    obtain ⟨-, rfl⟩ := ioWrite_ok_iff.1 h
    exact ioWritten_ioStore p v s
  case ram =>
    cases h
    rw [ramByte_write, if_pos rfl]
  case extra =>
    cases h
    rfl
  case unmapped => cases h

theorem Stored.advance (h : Stored a v s t) (n : Nat) : Stored a v s (t.advance n) := h

/-- R200: an instruction that is `storeTo` stores plainly. -/
theorem storesPlainly_of_exec_eq {i : Instr} {n : Nat} {a : State → Word}
    (h : ∀ s, exec i s = concludeAfter n (storeTo (a s) r s)) : StoresPlainly i n a r := by
  intro s
  refine ⟨fun hc => ?_, .of_memWrite fun f hf => ?_⟩
  · obtain ⟨u, hm⟩ := (memWrite_ok_iff (a s) (s.reg r) s).2 hc
    refine ⟨u.advance n, ?_, .of_touches (memWrite_touches hm) (memWrite_keeps hm).pc n,
      (stored_memWrite hm).advance n⟩
    rw [h s, concludeAfter_eq_next]
    exact ⟨u, hm, rfl⟩
  · rw [h s, concludeAfter_eq_fault, storeTo, hf]

/-- Settles O43. -/
theorem plainStoresWriteTheDataSpace : Obligations.PlainStoresWriteTheDataSpace := fun _ _ _ =>
  ⟨storesPlainly_of_exec_eq fun _ => rfl, storesPlainly_of_exec_eq fun _ => rfl,
    storesPlainly_of_exec_eq fun _ => rfl, storesPlainly_of_exec_eq fun _ => rfl,
    storesPlainly_of_exec_eq fun _ => by rw [exec, execStdY, displaced_eq_ofNat]; rfl,
    storesPlainly_of_exec_eq fun _ => by rw [exec, execStdZ, displaced_eq_ofNat]; rfl⟩

/-- R204 (b): outside the undefined forms the store does not go to the pointer's own registers. -/
theorem notMem_regs_of_route (hdef : ¬MovingFormUndefined p r a s) {i : Reg} (hi : route s.cfg a = .reg i) :
    i ∉ p.regs := by
  obtain ⟨hregs, ha⟩ := route_eq_reg_iff.1 hi
  have hnext : (nextReg p.low).val = p.low.val + 1 := by cases p <;> rfl
  intro hmem
  simp only [Pointer.regs, List.mem_cons, List.not_mem_nil, or_false] at hmem
  rcases hmem with rfl | rfl
  · exact hdef (.inr ⟨hregs, .inl ha⟩)
  · exact hdef (.inr ⟨hregs, .inr (ha.trans hnext)⟩)

/-- Moving the pointer leaves the stored byte where it went. -/
theorem Stored.setPointer (h : Stored a v s t) (hp : ∀ i, route s.cfg a = .reg i → i ∉ p.regs) (x : Word) :
    Stored a v s (t.setPointer p x) := by
  unfold Stored at h ⊢
  cases hr : route s.cfg a <;> simp only [hr] at h ⊢
  case reg i => exact (reg_setPointer_of_notMem (hp i hr) x).trans h
  all_goals exact h

/-- R201: an instruction that is `storeMoving` stores and moves its pointer. -/
theorem storesMoving_of_exec_eq {i : Instr} (h : ∀ s, exec i s = concludeAfter 1 (storeMoving m p r w0 s)) :
    StoresMoving i m p r := by
  intro s hdef
  refine ⟨fun hc => ?_, .of_memWrite fun f hf => ?_⟩ <;> rw [h s, storeMoving_of_defined hdef, storeTo]
  · obtain ⟨u, hm⟩ := (memWrite_ok_iff _ (s.reg r) s).2 hc
    have hframe : OnlyTouches (movingStoreTouches s.cfg p (m.address (s.pointer p))) s u :=
      (memWrite_touches hm).withRegs fun _ => List.mem_append_right _
    refine ⟨(u.setPointer p (m.after (s.pointer p))).advance 1, ?_, ?_, ?_, pointer_setPointer _⟩
    · rw [hm]
      rfl
    · exact .of_touches (hframe.setPointer (fun _ => List.mem_append_left _) _) (memWrite_keeps hm).pc 1
    · exact (stored_memWrite hm).setPointer (fun _ => notMem_regs_of_route hdef) _ |>.advance 1
  · rw [hf]
    rfl

/-- Settles O44. -/
theorem movingStoresWriteAndMoveThePointer : Obligations.MovingStoresWriteAndMoveThePointer := fun _ =>
  ⟨storesMoving_of_exec_eq fun _ => rfl, storesMoving_of_exec_eq fun _ => rfl, storesMoving_of_exec_eq fun _ => rfl,
    storesMoving_of_exec_eq fun _ => rfl, storesMoving_of_exec_eq fun _ => rfl, storesMoving_of_exec_eq fun _ => rfl⟩

/-! ## The undefined forms (R204) -/

theorem memRead_ne_undefinedForm {pc : PcWord} {w : Option Word} : memRead a s ≠ .error (.undefinedForm pc w) := by
  intro h
  rcases memRead_stops h with ⟨-, h⟩ | ⟨_, -, -, h⟩ <;> cases h

theorem memWrite_ne_undefinedForm {pc : PcWord} {w : Option Word} :
    memWrite a v s ≠ .error (.undefinedForm pc w) := by
  intro h
  rcases memWrite_stops h with ⟨-, h⟩ | ⟨_, -, -, h⟩ <;> cases h

theorem loadFrom_ne_undefinedForm {n : Nat} {pc : PcWord} {w : Option Word} :
    concludeAfter n (loadFrom a d s) ≠ .fault (.undefinedForm pc w) := fun h =>
  memRead_ne_undefinedForm (loadFrom_error_iff.1 (concludeAfter_eq_fault.1 h))

theorem storeTo_ne_undefinedForm {n : Nat} {pc : PcWord} {w : Option Word} :
    concludeAfter n (storeTo a r s) ≠ .fault (.undefinedForm pc w) := fun h =>
  memWrite_ne_undefinedForm (concludeAfter_eq_fault.1 h)

theorem loadMoving_undefined_iff :
    concludeAfter 1 (loadMoving m p d w0 s) = .fault (.undefinedForm s.pc (some w0)) ↔
      MovingFormUndefined p d (m.address (s.pointer p)) s := by
  rw [concludeAfter_eq_fault]
  refine ⟨fun h => by_contra fun hdef => ?_, loadMoving_of_undefined⟩
  rw [loadMoving_of_defined hdef] at h
  cases hl : loadFrom (m.address (s.pointer p)) d s with
  | ok u => rw [hl] at h; cases h
  | error f =>
    rw [hl] at h
    cases h
    exact memRead_ne_undefinedForm (loadFrom_error_iff.1 hl)

theorem storeMoving_undefined_iff :
    concludeAfter 1 (storeMoving m p r w0 s) = .fault (.undefinedForm s.pc (some w0)) ↔
      MovingFormUndefined p r (m.address (s.pointer p)) s := by
  rw [concludeAfter_eq_fault]
  refine ⟨fun h => by_contra fun hdef => ?_, storeMoving_of_undefined⟩
  rw [storeMoving_of_defined hdef] at h
  cases hl : storeTo (m.address (s.pointer p)) r s with
  | ok u => rw [hl] at h; cases h
  | error f =>
    rw [hl] at h
    cases h
    exact memWrite_ne_undefinedForm hl

/-- Settles O45. -/
theorem undefinedFormsAreTheOwnPointerOnes : Obligations.UndefinedFormsAreTheOwnPointerOnes := by
  refine ⟨fun d s => ?_, fun d q s w => ?_⟩ <;> simp only [List.forall_mem_cons]
  · exact ⟨loadMoving_undefined_iff, loadMoving_undefined_iff, loadMoving_undefined_iff, loadMoving_undefined_iff,
      loadMoving_undefined_iff, loadMoving_undefined_iff, storeMoving_undefined_iff, storeMoving_undefined_iff,
      storeMoving_undefined_iff, storeMoving_undefined_iff, storeMoving_undefined_iff, storeMoving_undefined_iff,
      List.forall_mem_nil _⟩
  · exact ⟨loadFrom_ne_undefinedForm, loadFrom_ne_undefinedForm, loadFrom_ne_undefinedForm,
      loadFrom_ne_undefinedForm, loadFrom_ne_undefinedForm, storeTo_ne_undefinedForm, storeTo_ne_undefinedForm,
      storeTo_ne_undefinedForm, storeTo_ne_undefinedForm, storeTo_ne_undefinedForm, List.forall_mem_nil _⟩

end Sys2Proof.Machine
end

section
/-! # The stack (spec/20_memory.md section 4): its slots, PUSH and POP -/

namespace Sys2Proof.Machine

variable {cfg : Config} {a : Word} {s t u : State} {v : Byte} {w0 : Option Word} {f : Fault}

/-! ## The slots (R61, R62) -/

theorem toNat_lowByte_setWidth (x : Word) : ((lowByte x).setWidth 16).toNat = x.toNat % 256 := by
  rw [BitVec.toNat_setWidth, toNat_lowByte]
  omega

/-- SP moved twice is moved by the sum. -/
theorem moveSp_moveSp (sp j k : Word) : moveSp cfg (moveSp cfg sp j) k = moveSp cfg sp (j + k) := by
  unfold moveSp
  cases cfg.spWidth
  · apply BitVec.eq_of_toNat_eq
    simp only [toNat_lowByte_setWidth, BitVec.toNat_add]
    omega
  · exact BitVec.add_assoc sp j k

theorem neg_ofNat_add (j k : Nat) : -BitVec.ofNat 16 j + -BitVec.ofNat 16 k = -BitVec.ofNat 16 (j + k) := by
  rw [BitVec.ofNat_add, BitVec.neg_add, BitVec.sub_eq_add_neg]

theorem neg_ofNat_add_cancel (j k : Nat) : -BitVec.ofNat 16 (j + k) + BitVec.ofNat 16 k = -BitVec.ofNat 16 j := by
  rw [← neg_ofNat_add, BitVec.add_assoc, BitVec.add_left_neg, BitVec.add_zero]

theorem pushSlot_succ (s : State) (k : Nat) : moveSp s.cfg (s.pushSlot k) (-1) = s.pushSlot (k + 1) := by
  rw [State.pushSlot, moveSp_moveSp]
  exact congrArg (moveSp s.cfg s.sp) (neg_ofNat_add k 1)

theorem popSlot_succ (s : State) (k : Nat) : moveSp s.cfg (s.popSlot k) 1 = s.popSlot (k + 1) := by
  rw [State.popSlot, moveSp_moveSp, State.popSlot, BitVec.ofNat_add (k + 1) 1]
  rfl

/-- R30: an SP that fits its width is the first slot. -/
theorem State.Inv.pushSlot_zero (h : s.Inv) : s.pushSlot 0 = s.sp := by
  have hfit := h.spFits
  unfold State.pushSlot moveSp
  cases hw : s.cfg.spWidth
  · apply BitVec.eq_of_toNat_eq
    rw [toNat_lowByte_setWidth, BitVec.neg_zero, BitVec.add_zero]
    exact Nat.mod_eq_of_lt (hfit hw)
  · simp

/-- What is popped after `n` pushes lies where it was pushed. -/
theorem popSlot_of_pushed {n k : Nat} (hcfg : t.cfg = s.cfg) (hsp : t.sp = s.pushSlot n) (hk : k < n) :
    t.popSlot k = s.pushSlot (n - 1 - k) := by
  obtain ⟨j, rfl⟩ : ∃ j, n = j + (k + 1) := ⟨n - (k + 1), by omega⟩
  rw [State.popSlot, hcfg, hsp, State.pushSlot, moveSp_moveSp, neg_ofNat_add_cancel, State.pushSlot,
    show j + (k + 1) - 1 - k = j by omega]

/-- A few pushes use a slot each. -/
theorem pushSlot_ne {j k : Nat} (hj : j < 256) (hk : k < 256) (hne : j ≠ k) : s.pushSlot j ≠ s.pushSlot k := by
  intro h
  have h := congrArg BitVec.toNat h
  have hsp := s.sp.isLt
  unfold State.pushSlot moveSp at h
  cases hw : s.cfg.spWidth <;>
    simp only [hw, toNat_lowByte_setWidth, BitVec.toNat_add, BitVec.toNat_neg, BitVec.toNat_ofNat] at h <;> omega

/-! ## SP's own locations (R54) -/

/-- R54: beside SP's own locations a data address does not lead to a byte of SP. -/
theorem ioPlace_of_not_spLocation {p : IoAddr} (h : isSpLocation cfg a = false) (hr : route cfg a = .io p) :
    ioPlace cfg p ≠ .spl ∧ ioPlace cfg p ≠ .sph := by
  obtain ⟨-, ha⟩ := route_eq_io_iff.1 hr
  simp only [isSpLocation, Bool.or_eq_false_iff, beq_eq_false_iff_ne, ne_eq, ha, Nat.add_left_cancel_iff] at h
  unfold ioPlace
  split_ifs <;> simp_all

/-- A store beside SP's own locations leaves SP alone. -/
theorem sp_memWrite (h : memWrite a v s = .ok t) (hsp : isSpLocation s.cfg a = false) : t.sp = s.sp := by
  refine (memWrite_touches h).sp ?_
  unfold storeTouches
  cases hr : route s.cfg a <;> simp only
  case io p =>
    obtain ⟨hl, hh⟩ := ioPlace_of_not_spLocation hsp hr
    unfold ioWriteTouches
    split
    · rfl
    · contradiction
    · contradiction
    · cases s.cfg.ioDevice <;> rfl

/-- What is stored beside SP's own locations stays there when SP moves. -/
theorem Stored.withSp (h : Stored a v s t) (hsp : isSpLocation s.cfg a = false) (x : Word) :
    Stored a v s { t with sp := x } := by
  unfold Stored at h ⊢
  cases hr : route s.cfg a <;> simp only [hr] at h ⊢
  case io p =>
    obtain ⟨hl, hh⟩ := ioPlace_of_not_spLocation hsp hr
    unfold IoWritten at h ⊢
    cases hp : ioPlace s.cfg p <;> simp only [hp] at h ⊢
    case spl => exact absurd hp hl
    case sph => exact absurd hp hh
    all_goals exact h
  all_goals exact h

/-- R54: under the constraints SP's own locations are I/O locations. -/
theorem not_spLocation_of_ram (hwf : cfg.WF) (hr : route cfg a = .ram) : isSpLocation cfg a = false := by
  obtain ⟨hlow, -⟩ := route_ram hr
  obtain ⟨-, hspl, hsph⟩ := ioLocations_lt hwf
  obtain ⟨-, -, -, -, hram, -⟩ := hwf
  simp only [isSpLocation, Bool.or_eq_false_iff, beq_eq_false_iff_ne]
  omega

theorem completes_of_ram (hr : route cfg a = .ram) (events : List PlatformEvent) : Completes cfg events a := by
  simp [Completes, hr]

/-! ## PUSH (R61, R234) -/

theorem push_of_not_spLocation (h : isSpLocation s.cfg s.sp = false) :
    push w0 v s = (memWrite s.sp v s).map fun u => { u with sp := moveSp u.cfg u.sp (-1) } := by
  rw [push, if_neg (by simp [h])]
  cases memWrite s.sp v s <;> rfl

theorem push_of_spLocation (h : isSpLocation s.cfg s.sp = true) : push w0 v s = .error (.undefinedForm s.pc w0) :=
  if_pos h

/-- What a push does, where it completes. -/
theorem push_lands (hsp : isSpLocation s.cfg s.sp = false) (hc : Completes s.cfg s.events s.sp) (w0 : Option Word)
    (v : Byte) :
    ∃ t, push w0 v s = .ok t ∧ t.sp = moveSp s.cfg s.sp (-1) ∧ t.events = writeEvents s.cfg s.sp v ++ s.events ∧
      Stored s.sp v s t ∧ OnlyTouches { storeTouches s.cfg s.sp with sp := true } s t := by
  obtain ⟨u, hu⟩ := (memWrite_ok_iff s.sp v s).2 hc
  have hevents : u.events = writeEvents s.cfg s.sp v ++ s.events := memWrite_events hu
  refine ⟨{ u with sp := moveSp u.cfg u.sp (-1) }, ?_, ?_, hevents, (stored_memWrite hu).withSp hsp _, ?_⟩
  · rw [push_of_not_spLocation hsp, hu]
    rfl
  · rw [sp_memWrite hu hsp, (memWrite_keeps hu).cfg]
  · exact { memWrite_touches hu with sp := nofun }

/-- Settles O49. -/
theorem pushStoresAndMovesSpDown : Obligations.PushStoresAndMovesSpDown := by
  intro r s
  refine ⟨fun h => ?_, fun h => .of_memWrite fun f hf => ?_, fun h hc => ?_⟩
  · rw [exec, execPush, push_of_spLocation h]
    rfl
  · rw [exec, execPush, push_of_not_spLocation h, hf]
    rfl
  · obtain ⟨t, ht, hsp, -, hst, hframe⟩ := push_lands h hc (some (encodeWord (.push r))) (s.reg r)
    refine ⟨t.advance 1, ?_, .of_touches hframe (push_keeps ht).pc 1, hst.advance 1, hsp⟩
    rw [exec, execPush, ht]
    rfl

/-! ## POP (R62, R235) -/

/-- SP where the pop after `k` others leaves it. -/
theorem pop_eq (s : State) : pop s = memRead (s.popSlot 0) { s with sp := s.popSlot 0 } := rfl

theorem OnlyTouches.of_withSp {w : Touched} {x : Word} (h : OnlyTouches w { s with sp := x } t) :
    OnlyTouches { w with sp := true } s t :=
  { h with sp := nofun }

/-- Settles O50. -/
theorem popMovesSpUpAndLoads : Obligations.PopMovesSpUpAndLoads := by
  intro d s
  refine ⟨fun hc => ?_, AccessStops.of_memRead (s := { s with sp := s.popSlot 0 }) fun f hf => ?_⟩
  · obtain ⟨⟨v, u⟩, hm⟩ := (memRead_ok_iff _ { s with sp := s.popSlot 0 }).2 hc
    have hframe := memRead_touches hm
    have hpc : (u.setReg d v).pc = s.pc := (memRead_keeps hm).pc
    refine ⟨(u.setReg d v).advance 1, by rw [exec, execPop, pop_eq, hm], hframe.sp rfl,
      .of_memRead hm (State.reg_setReg_self u d v) rfl, .of_touches ?_ hpc 1⟩
    exact ((hframe.withRegs (rs := [d]) nofun).setReg (.head _) v).of_withSp
  · rw [exec, execPop, pop_eq, hf]

end Sys2Proof.Machine
end

section
/-! # What a store leaves unchanged beside its own address (spec/20_memory.md R53, R70) -/

namespace Sys2Proof.Machine

variable {cfg : Config} {a b : Word} {s t u : State} {v : Byte}

theorem ioPlace_eq_sreg_iff {p : IoAddr} : ioPlace cfg p = .sreg ↔ p.val = cfg.ioSreg := by
  unfold ioPlace
  split_ifs <;> simp_all

/-! ## What a store may touch -/

theorem ioWriteTouches_bounds (cfg : Config) (p : IoAddr) :
    (ioWriteTouches cfg p).regs = [] ∧ (ioWriteTouches cfg p).ram = [] ∧ ∀ q ∈ (ioWriteTouches cfg p).io, q = p := by
  unfold ioWriteTouches
  cases ioPlace cfg p <;> cases cfg.ioDevice <;> simp

theorem route_of_mem_regs {i : Reg} (h : i ∈ (storeTouches cfg a).regs) : route cfg a = .reg i := by
  unfold storeTouches at h
  cases hr : route cfg a <;> simp [hr, ioWriteTouches_bounds] at h
  rw [h]

theorem route_of_mem_io {q : IoAddr} (h : q ∈ (storeTouches cfg a).io) : route cfg a = .io q := by
  unfold storeTouches at h
  cases hr : route cfg a <;> simp only [hr, List.not_mem_nil] at h
  rw [(ioWriteTouches_bounds cfg _).2.2 q h]

theorem eq_of_mem_ram {k : Nat} (h : k ∈ (storeTouches cfg a).ram) : k = a.toNat := by
  unfold storeTouches at h
  cases hr : route cfg a <;> simp [hr, ioWriteTouches_bounds] at h
  exact h

/-- R26, R56: a store elsewhere leaves SREG and `irq_inhibit` alone. -/
theorem storeTouches_of_ne_sreg (h : a.toNat ≠ cfg.ioDataBase + cfg.ioSreg) :
    (storeTouches cfg a).flags = [] ∧ (storeTouches cfg a).inhibit = false := by
  unfold storeTouches
  cases hr : route cfg a <;> simp only [and_self]
  case io p =>
    have hp : ioPlace cfg p ≠ .sreg := fun hp => h (ioPlace_eq_sreg_iff.1 hp ▸ (route_eq_io_iff.1 hr).2)
    unfold ioWriteTouches
    cases hpl : ioPlace cfg p
    case sreg => exact absurd hpl hp
    all_goals cases cfg.ioDevice <;> exact ⟨rfl, rfl⟩

/-! ## The byte at another address -/

/-- What is touched holds no part of the byte at the data address `b`. -/
def Touched.Spares (w : Touched) (cfg : Config) (b : Word) : Prop :=
  match route cfg b with
  | .reg i => i ∉ w.regs
  | .io p =>
    match ioPlace cfg p with
    | .sreg => w.flags = []
    | .spl => w.sp = false
    | .sph => w.sp = false
    | .device => p ∉ w.io
  | .ram => b.toNat ∉ w.ram
  | .extra => True
  | .unmapped => True

theorem OnlyTouches.dataByte_eq {w : Touched} (h : OnlyTouches w s t) (hb : w.Spares s.cfg b) :
    t.dataByte b = s.dataByte b := by
  unfold Touched.Spares at hb
  unfold State.dataByte
  rw [h.cfg]
  cases hr : route s.cfg b <;> simp only [hr] at hb ⊢
  case reg i => rw [h.regs i hb]
  case ram => rw [h.ram _ hb]
  case io p =>
    unfold State.ioByte
    rw [h.cfg]
    cases hp : ioPlace s.cfg p <;> simp only [hp] at hb ⊢
    case sreg =>
      have hsreg : t.sreg = s.sreg := sreg_ext fun f => h.flags f (by simp [hb])
      rw [hsreg]
    case spl => rw [h.sp hb]
    case sph => rw [State.spHigh, h.cfg, h.sp hb, State.spHigh]
    case device => rw [h.io p hb]

/-- A push to another address spares every byte that is not SP's. -/
theorem storeTouches_spares (hne : b ≠ a) (hb : isSpLocation cfg b = false) :
    ({ storeTouches cfg a with sp := true } : Touched).Spares cfg b := by
  unfold Touched.Spares
  cases hr : route cfg b <;> simp only
  case reg i => exact fun hi => hne (eq_of_route_reg hr (route_of_mem_regs hi))
  case ram => exact fun hm => hne (BitVec.eq_of_toNat_eq (eq_of_mem_ram hm))
  case io p =>
    obtain ⟨hl, hh⟩ := ioPlace_of_not_spLocation hb hr
    cases hp : ioPlace cfg p <;> simp only
    case spl => exact absurd hp hl
    case sph => exact absurd hp hh
    case device => exact fun hm => hne (eq_of_route_io hr (route_of_mem_io hm))
    case sreg =>
      refine (storeTouches_of_ne_sreg fun ha => hne (BitVec.eq_of_toNat_eq ?_)).1
      rw [(route_eq_io_iff.1 hr).2, ioPlace_eq_sreg_iff.1 hp, ha]

/-- A byte stored in the core or in plain storage is what its address then reads as. -/
theorem Stored.dataByte_eq (h : Stored a v s t) (hcfg : t.cfg = s.cfg) (hsp : isSpLocation s.cfg a = false)
    (he : writeEvents s.cfg a v = []) : t.dataByte a = some v := by
  unfold Stored at h
  unfold State.dataByte
  unfold writeEvents at he
  rw [hcfg]
  cases hr : route s.cfg a <;> simp only [hr] at h he ⊢
  case reg i => rw [h]
  case ram => rw [h]
  case extra => cases he
  case io p =>
    obtain ⟨hl, hh⟩ := ioPlace_of_not_spLocation hsp hr
    unfold IoWritten at h
    unfold ioWriteEvents at he
    unfold State.ioByte
    rw [hcfg]
    cases hp : ioPlace s.cfg p <;> simp only [hp] at h he ⊢
    case sreg => rw [h.1]
    case spl => exact absurd hp hl
    case sph => exact absurd hp hh
    case device => cases hd : s.cfg.ioDevice <;> simp_all

/-- R307: what a store at SREG's address does to `irq_inhibit`. -/
theorem Stored.inhibit (hwf : s.cfg.WF) (ha : a.toNat = s.cfg.ioDataBase + s.cfg.ioSreg) (h : Stored a v s t) :
    InhibitAfterSregWrite v s t := by
  have hlt := (ioLocations_lt hwf).1
  simp only [Stored, route_io_of_wf hwf hlt ha, IoWritten, ioPlace_sreg hlt] at h
  exact h.2

/-- The rule looks at the configuration, I and `irq_inhibit` only. -/
theorem InhibitAfterSregWrite.congr {s' t' : State} (h : InhibitAfterSregWrite v s t) (hcfg : s.cfg = s'.cfg)
    (hi : s.flag .i = s'.flag .i) (hs : s.irqInhibit = s'.irqInhibit) (ht : t'.irqInhibit = t.irqInhibit) :
    InhibitAfterSregWrite v s' t' := by
  unfold InhibitAfterSregWrite at h ⊢
  rwa [← hcfg, ← hi, ← hs, ht]

end Sys2Proof.Machine
end

section
/-! # Pushing a return address (spec/20_memory.md R61, R63) -/

namespace Sys2Proof.Machine

variable {s t u : State} {v : Byte} {w0 : Option Word} {w : PcWord} {n N : Nat}

/-! ## The frame and the events of several pushes -/

theorem foldr_union_of_mem {T : Nat → Touched} {init : Touched} {l : List Nat} {k : Nat} (hk : k ∈ l)
    (h : OnlyTouches (T k) s t) : OnlyTouches (l.foldr (fun k w => (T k).union w) init) s t := by
  induction l with
  | nil => cases hk
  | cons j l ih =>
    rcases List.mem_cons.1 hk with rfl | hk
    · exact h.union_left _
    · exact (ih hk).union_right _

theorem foldr_union_of_init {T : Nat → Touched} {init : Touched} (h : OnlyTouches init s t) (l : List Nat) :
    OnlyTouches (l.foldr (fun k w => (T k).union w) init) s t := by
  induction l with
  | nil => exact h
  | cons j l ih => exact ih.union_right _

/-- What one of the `N` pushes touches. -/
theorem pushTouches_of_push {k : Nat} (hk : k < N)
    (h : OnlyTouches { storeTouches s.cfg (s.pushSlot k) with sp := true } u t) :
    OnlyTouches (s.pushTouches N) u t := by
  have hstore : OnlyTouches (storeTouches s.cfg (s.pushSlot k)) u { t with sp := u.sp } := { h with sp := fun _ => rfl }
  have hsp : OnlyTouches { sp := true } { t with sp := u.sp } t :=
    { OnlyTouches.refl { sp := true } t with sp := nofun }
  exact (foldr_union_of_mem (List.mem_range.2 hk) hstore).trans (foldr_union_of_init hsp _)

theorem pushEvents_succ (s : State) (w : PcWord) (n : Nat) :
    s.pushEvents w (n + 1) = writeEvents s.cfg (s.pushSlot n) (returnByte w n) ++ s.pushEvents w n := by
  simp [State.pushEvents, List.range_succ]

/-! ## Pushing bytes one after the other -/

theorem pushAll_append (w0 : Option Word) (vs ws : List Byte) (s : State) :
    pushAll w0 (vs ++ ws) s = (pushAll w0 vs s).bind (pushAll w0 ws) := by
  induction vs generalizing s with
  | nil => rfl
  | cons v vs ih =>
    rw [List.cons_append, pushAll, pushAll]
    cases push w0 v s with
    | ok u => exact ih u
    | error f => rfl

theorem pushAll_singleton (w0 : Option Word) (v : Byte) (s : State) : pushAll w0 [v] s = push w0 v s := by
  rw [pushAll]
  cases push w0 v s <;> rfl

/-- The first `n` of the bytes that a push of the return address `w` pushes. -/
def pushedBytes (w : PcWord) (n : Nat) : List Byte := (List.range n).map (returnByte w)

theorem pushedBytes_succ (w : PcWord) (n : Nat) : pushedBytes w (n + 1) = pushedBytes w n ++ [returnByte w n] := by
  simp [pushedBytes, List.range_succ]

theorem pushedBytes_split {k : Nat} (w : PcWord) (hk : k < n) :
    ∃ ws, pushedBytes w n = pushedBytes w k ++ returnByte w k :: ws := by
  obtain ⟨j, rfl⟩ : ∃ j, n = k + (1 + j) := ⟨n - k - 1, by omega⟩
  refine ⟨(List.range j).map fun i => returnByte w (k + (1 + i)), ?_⟩
  simp [pushedBytes, List.range_add, List.map_map, Function.comp_def]

theorem pcBytes_le (cfg : Config) : pcBytes cfg ≤ 3 := by
  unfold pcBytes
  split <;> omega

/-- R63: the bytes a return address is pushed as, the least significant first. -/
theorem returnBytes_eq (cfg : Config) (w : PcWord) : returnBytes cfg w = pushedBytes w (pcBytes cfg) := by
  have hw := w.isLt
  have h0 : w.extractLsb' 0 8 = returnByte w 0 := by
    apply BitVec.eq_of_toNat_eq
    simp [returnByte, BitVec.extractLsb'_toNat]
  have h1 : w.extractLsb' 8 8 = returnByte w 1 := by
    apply BitVec.eq_of_toNat_eq
    simp [returnByte, BitVec.extractLsb'_toNat, Nat.shiftRight_eq_div_pow]
  have h2 : (w.extractLsb' 16 6).setWidth 8 = returnByte w 2 := by
    apply BitVec.eq_of_toNat_eq
    simp only [returnByte, BitVec.toNat_setWidth, BitVec.extractLsb'_toNat, Nat.shiftRight_eq_div_pow,
      BitVec.toNat_ofNat]
    omega
  rw [returnBytes, h0, h1, h2, pcBytes]
  split <;> rfl

/-- After `n` of `N` pushes of the return address `w`: what `PushedAnywhere` says of them, and that SREG is as it was
unless one of them went there. -/
structure PushedSoFar (n N : Nat) (w : PcWord) (s t : State) : Prop where
  sp : t.sp = s.pushSlot n
  bytes : ∀ k < n, writeEvents s.cfg (s.pushSlot k) (returnByte w k) = [] →
    t.dataByte (s.pushSlot k) = some (returnByte w k)
  events : t.events = s.pushEvents w n
  inhibit : ∀ k < n, (s.pushSlot k).toNat = s.cfg.ioDataBase + s.cfg.ioSreg →
    InhibitAfterSregWrite (returnByte w k) s t
  quiet : (∀ k < n, (s.pushSlot k).toNat ≠ s.cfg.ioDataBase + s.cfg.ioSreg) →
    t.flag .i = s.flag .i ∧ t.irqInhibit = s.irqInhibit
  frame : OnlyTouches (s.pushTouches N) s t

theorem PushedSoFar.zero (hsp : s.pushSlot 0 = s.sp) : PushedSoFar 0 N w s s where
  sp := hsp.symm
  bytes := nofun
  events := rfl
  inhibit := nofun
  quiet _ := ⟨rfl, rfl⟩
  frame := .refl _ s

theorem PushedSoFar.pushedAnywhere (h : PushedSoFar n n w s t) : PushedAnywhere n w s t :=
  ⟨h.sp, h.bytes, h.events, h.inhibit, h.frame⟩

/-- One more push. -/
theorem PushedSoFar.succ (hwf : s.cfg.WF) (hn : n < N) (hN : N ≤ 3) (h : PushedSoFar n N w s u)
    (hloc : ∀ k ≤ n, isSpLocation s.cfg (s.pushSlot k) = false)
    (hc : Completes s.cfg (s.pushEvents w n) (s.pushSlot n)) (w0 : Option Word) :
    ∃ t, push w0 (returnByte w n) u = .ok t ∧ PushedSoFar (n + 1) N w s t := by
  have hcfg : u.cfg = s.cfg := h.frame.cfg
  have hland := push_lands (s := u) (by rw [hcfg, h.sp]; exact hloc n le_rfl)
    (by rw [hcfg, h.events, h.sp]; exact hc) w0 (returnByte w n)
  rw [h.sp, hcfg] at hland
  obtain ⟨t, ht, hsp, hevents, hstored, htouch⟩ := hland
  have htcfg : t.cfg = u.cfg := htouch.cfg
  have hne {j k : Nat} (hj : j ≤ n) (hk : k ≤ n) (hjk : j ≠ k) : s.pushSlot j ≠ s.pushSlot k :=
    pushSlot_ne (by omega) (by omega) hjk
  have hframe := pushTouches_of_push hn htouch
  have hother (hs : (s.pushSlot n).toNat ≠ s.cfg.ioDataBase + s.cfg.ioSreg) :
      t.flag .i = u.flag .i ∧ t.irqInhibit = u.irqInhibit := by
    obtain ⟨hf, hi⟩ := storeTouches_of_ne_sreg hs
    exact ⟨htouch.flags .i (by simp [hf]), htouch.inhibit hi⟩
  refine ⟨t, ht, ?_, fun k hk he => ?_, ?_, fun k hk hs => ?_, fun hq => ?_, h.frame.trans hframe⟩
  · rw [hsp, pushSlot_succ]
  · rcases Nat.lt_succ_iff_lt_or_eq.1 hk with hk | rfl
    · rw [← h.bytes k hk he]
      refine htouch.dataByte_eq ?_
      rw [hcfg]
      exact storeTouches_spares (hne hk.le le_rfl hk.ne) (hloc k hk.le)
    · exact hstored.dataByte_eq htcfg (by rw [hcfg]; exact hloc k le_rfl) (by rw [hcfg]; exact he)
  · rw [hevents, h.events, pushEvents_succ]
  · rcases Nat.lt_succ_iff_lt_or_eq.1 hk with hk | rfl
    · have hn' : (s.pushSlot n).toNat ≠ s.cfg.ioDataBase + s.cfg.ioSreg := fun e =>
        hne hk.le le_rfl hk.ne (BitVec.eq_of_toNat_eq (hs.trans e.symm))
      exact (h.inhibit k hk hs).congr rfl rfl rfl (hother hn').2
    · obtain ⟨hi, hs'⟩ := h.quiet fun j hj e =>
        hne hj.le le_rfl hj.ne (BitVec.eq_of_toNat_eq (e.trans hs.symm))
      exact (Stored.inhibit (by rwa [hcfg]) (by rwa [hcfg]) hstored).congr hcfg hi hs' rfl
  · obtain ⟨hi, hs'⟩ := h.quiet fun k hk => hq k (Nat.lt_succ_of_lt hk)
    obtain ⟨hi', hs''⟩ := hother (hq n (Nat.lt_succ_self n))
    exact ⟨hi'.trans hi, hs''.trans hs'⟩

/-- R61: the first `n` pushes, where they can be made. -/
theorem pushAll_lands (hinv : s.Inv) (hN : N ≤ 3) (hn : n ≤ N) (h : s.PushesLand n w) (w0 : Option Word) :
    ∃ u, pushAll w0 (pushedBytes w n) s = .ok u ∧ PushedSoFar n N w s u := by
  induction n with
  | zero => exact ⟨s, rfl, .zero hinv.pushSlot_zero⟩
  | succ n ih =>
    obtain ⟨u, hu, hso⟩ := ih (by omega) fun k hk => h k (Nat.lt_succ_of_lt hk)
    obtain ⟨t, ht, hso'⟩ := hso.succ hinv.config (by omega) hN (fun k hk => (h k (Nat.lt_succ_of_le hk)).1)
      (h n (Nat.lt_succ_self n)).2 w0
    refine ⟨t, ?_, hso'⟩
    rw [pushedBytes_succ, pushAll_append, hu, Except.bind, pushAll_singleton, ht]

/-! ## `PushPc` (R54, R63) -/

/-- R54: the check before a push looks at the slots, the first of which is SP where SP fits. -/
theorem pushHitsSp_iff {cfg : Config} {sp : Word} (hsp : moveSp cfg sp (-BitVec.ofNat 16 0) = sp) :
    pushHitsSp cfg n sp = true ↔ ∃ k < n, isSpLocation cfg (moveSp cfg sp (-BitVec.ofNat 16 k)) = true := by
  induction n generalizing sp with
  | zero => simp [pushHitsSp]
  | succ n ih =>
    have hmove (k : Nat) : moveSp cfg (moveSp cfg sp (-1)) (-BitVec.ofNat 16 k) =
        moveSp cfg sp (-BitVec.ofNat 16 (k + 1)) := by
      rw [moveSp_moveSp, Nat.add_comm k 1]
      exact congrArg (moveSp cfg sp) (neg_ofNat_add 1 k)
    rw [pushHitsSp, Bool.or_eq_true, ih (hmove 0), Nat.exists_lt_succ_left, hsp]
    simp only [hmove]

theorem State.Inv.pushHitsSp_iff (h : s.Inv) :
    pushHitsSp s.cfg n s.sp = true ↔ ∃ k < n, isSpLocation s.cfg (s.pushSlot k) = true :=
  Machine.pushHitsSp_iff h.pushSlot_zero

theorem pushPc_of_clear (hinv : s.Inv) (h : ∀ k < pcBytes s.cfg, isSpLocation s.cfg (s.pushSlot k) = false) :
    pushPc w0 w s = pushAll w0 (pushedBytes w (pcBytes s.cfg)) s := by
  rw [pushPc, if_neg, returnBytes_eq]
  rw [hinv.pushHitsSp_iff]
  rintro ⟨k, hk, hit⟩
  simp [h k hk] at hit

/-- R63: a return address is pushed wherever its bytes can be stored. -/
theorem pushPc_lands (hinv : s.Inv) (h : s.PushesLand (pcBytes s.cfg) w) (w0 : Option Word) :
    ∃ u, pushPc w0 w s = .ok u ∧ PushedAnywhere (pcBytes s.cfg) w s u := by
  obtain ⟨u, hu, hso⟩ := pushAll_lands hinv (pcBytes_le s.cfg) le_rfl h w0
  exact ⟨u, (pushPc_of_clear hinv fun k hk => (h k hk).1).trans hu, hso.pushedAnywhere⟩

/-- R54, R301: what ends with the fault of its push of `w` stops where the spec says. -/
theorem pushStops_of_pushPc {r : Result} (hinv : s.Inv) (h : ∀ f, pushPc w0 w s = .error f → r = .fault f) :
    PushStops (pcBytes s.cfg) w0 w s r := by
  refine ⟨fun hhit => h _ (if_pos (hinv.pushHitsSp_iff.2 hhit)), fun m hm hclear hc => ?_⟩
  obtain ⟨u, hu, hso⟩ := pushAll_lands hinv (pcBytes_le s.cfg) hm.le
    (fun k hk => ⟨hclear k (hk.trans hm), hc k hk⟩) w0
  obtain ⟨ws, hws⟩ := pushedBytes_split w hm
  have hcfg : u.cfg = s.cfg := hso.frame.cfg
  rw [← hcfg, ← hso.events, ← hso.sp]
  refine .of_memWrite fun f hf => h f ?_
  have hpush : push w0 (returnByte w m) u = .error f := by
    rw [push_of_not_spLocation (by rw [hcfg, hso.sp]; exact hclear m hm), hf]
    rfl
  rw [pushPc_of_clear hinv hclear, hws, pushAll_append, hu, Except.bind, pushAll, hpush]

/-! ## The stack in RAM -/

theorem State.PushRoom.lands (h : s.PushRoom n) (hwf : s.cfg.WF) (w : PcWord) : s.PushesLand n w := fun k hk =>
  ⟨not_spLocation_of_ram hwf (h k hk), completes_of_ram (h k hk) _⟩

theorem foldr_storeTouches_ram (l : List Nat) (h : ∀ k ∈ l, route s.cfg (s.pushSlot k) = .ram) :
    l.foldr (fun k w => (storeTouches s.cfg (s.pushSlot k)).union w) { sp := true } =
      { sp := true, ram := l.map fun k => (s.pushSlot k).toNat } := by
  induction l with
  | nil => rfl
  | cons j l ih =>
    rw [List.foldr_cons, ih fun k hk => h k (.tail j hk), storeTouches, h j (.head l)]
    rfl

theorem State.PushRoom.touches (h : s.PushRoom n) : s.pushTouches n = { sp := true, ram := s.pushBytes n } :=
  foldr_storeTouches_ram (List.range n) fun k hk => h k (List.mem_range.1 hk)

theorem writeEvents_ram {cfg : Config} {a : Word} (h : route cfg a = .ram) (v : Byte) : writeEvents cfg a v = [] := by
  simp only [writeEvents, h]

theorem State.PushRoom.events (h : s.PushRoom n) (w : PcWord) : s.pushEvents w n = s.events := by
  rw [State.pushEvents, List.flatMap_eq_nil_iff.2, List.nil_append]
  intro j hj
  exact writeEvents_ram (h j (by simpa using hj)) _

theorem PushedAnywhere.returnPushed (h : PushedAnywhere n w s t) (hroom : s.PushRoom n) : ReturnPushed n w s t := by
  intro k hk
  have hbyte := h.bytes k hk (writeEvents_ram (hroom k hk) _)
  rwa [State.dataByte, h.frame.cfg, hroom k hk] at hbyte

theorem PushedAnywhere.frame_ram (h : PushedAnywhere n w s t) (hroom : s.PushRoom n) :
    OnlyTouches { sp := true, ram := s.pushBytes n } s t := hroom.touches ▸ h.frame

/-! ## The calls (R152, R153) -/

theorem callTo_lands {target : PcWord} {i : Instr} (hi : exec i s = conclude (callTo (encodeWord i) target s))
    (hinv : s.Inv) (h : s.PushesLand (pcBytes s.cfg) (s.pcAfter 1)) :
    ∃ t, exec i s = .next t ∧ t.pc = target ∧ PushedAnywhere (pcBytes s.cfg) (s.pcAfter 1) s t := by
  obtain ⟨u, hu, hp⟩ := pushPc_lands hinv h (some (encodeWord i))
  refine ⟨{ u with pc := target }, ?_, rfl, ⟨hp.sp, hp.bytes, hp.events, hp.inhibit, hp.frame.withPc target⟩⟩
  rw [hi, conclude_eq_next]
  exact callTo_ok_iff.2 ⟨u, hu, rfl⟩

theorem callTo_stops {target : PcWord} {i : Instr} (hi : exec i s = conclude (callTo (encodeWord i) target s))
    (hinv : s.Inv) : PushStops (pcBytes s.cfg) (some (encodeWord i)) (s.pcAfter 1) s (exec i s) := by
  refine pushStops_of_pushPc hinv fun f hf => ?_
  rw [hi, callTo, hf]
  rfl

/-- Settles O36. -/
theorem callsOverAnyStack : Obligations.CallsOverAnyStack := by
  intro k s hinv
  simp only [List.forall_mem_cons]
  exact ⟨⟨callTo_lands rfl hinv, callTo_stops rfl hinv⟩, ⟨callTo_lands rfl hinv, callTo_stops rfl hinv⟩,
    List.forall_mem_nil _⟩

/-- A call with the stack in RAM. -/
theorem callTo_room {target : PcWord} {i : Instr} (hi : exec i s = conclude (callTo (encodeWord i) target s))
    (hinv : s.Inv) (hroom : s.PushRoom (pcBytes s.cfg)) :
    ∃ t, exec i s = .next t ∧ t.pc = target ∧ t.sp = s.pushSlot (pcBytes s.cfg) ∧
      ReturnPushed (pcBytes s.cfg) (s.pcAfter 1) s t ∧
      OnlyTouches { sp := true, ram := s.pushBytes (pcBytes s.cfg) } s t := by
  obtain ⟨t, ht, hpc, hp⟩ := callTo_lands hi hinv (hroom.lands hinv.config _)
  exact ⟨t, ht, hpc, hp.sp, hp.returnPushed hroom, hp.frame_ram hroom⟩

/-- Settles O35. -/
theorem callsPushTheReturnAddress : Obligations.CallsPushTheReturnAddress := by
  intro k s hinv hroom
  have h22 := hinv.config.2.1
  obtain ⟨t, ht, hpc, hrest⟩ := callTo_room (i := .rcall k) rfl hinv hroom
  obtain ⟨t', ht', hpc', hrest'⟩ := callTo_room (i := .icall) rfl hinv hroom
  exact ⟨⟨t, ht, by rw [hpc]; exact toNat_relTarget h22 _, hrest⟩,
    ⟨t', ht', by rw [hpc']; exact toNat_indirectTarget h22, hrest'⟩⟩

end Sys2Proof.Machine
end

section
/-! # Popping a return address (spec/20_memory.md R62, R64) and the returns (spec/42_branch.md R154, R155) -/

namespace Sys2Proof.Machine

variable {s t u : State} {v : Byte} {w : PcWord} {f : Fault} {n acc m : Nat}

/-! ## The number of the bytes popped (R64) -/

theorem numberOfBytes_succ (n : Nat) (b : Nat → Byte) :
    numberOfBytes (n + 1) b = numberOfBytes n b * 256 + (b n).toNat := by
  simp [numberOfBytes, List.range_succ, Nat.mul_comm]

theorem numberOfBytes_congr {b c : Nat → Byte} (h : ∀ k < n, b k = c k) : numberOfBytes n b = numberOfBytes n c := by
  induction n with
  | zero => rfl
  | succ n ih =>
    rw [numberOfBytes_succ, numberOfBytes_succ, ih fun k hk => h k (Nat.lt_succ_of_lt hk), h n (Nat.lt_succ_self n)]

/-- The bytes of a number, the most significant first, give it back. -/
theorem numberOfBytes_of_digits (n x : Nat) (b : Nat → Byte)
    (hb : ∀ k < n, b k = BitVec.ofNat 8 (x / 256 ^ (n - 1 - k))) : numberOfBytes n b = x % 256 ^ n := by
  induction n generalizing x with
  | zero => simp [numberOfBytes, Nat.mod_one]
  | succ n ih =>
    have hlast : (b n).toNat = x % 256 := by
      rw [hb n (Nat.lt_succ_self n), show n + 1 - 1 - n = 0 by omega, Nat.pow_zero, Nat.div_one, BitVec.toNat_ofNat]
    have hinit : numberOfBytes n b = x / 256 % 256 ^ n := ih (x / 256) fun k hk => by
      rw [hb k (Nat.lt_succ_of_lt hk), Nat.div_div_eq_div_mul, ← Nat.pow_succ',
        show (n - 1 - k).succ = n + 1 - 1 - k by omega]
    rw [numberOfBytes_succ, hinit, hlast, Nat.pow_succ', Nat.mod_mul]
    omega

/-! ## Popping bytes one after the other -/

theorem popAll_add (j k acc : Nat) (s : State) :
    popAll (j + k) acc s = (popAll j acc s).bind fun r => popAll k r.1 r.2 := by
  induction j generalizing acc s with
  | zero => rw [Nat.zero_add]; rfl
  | succ j ih =>
    rw [Nat.succ_add, popAll, popAll]
    cases pop s with
    | ok r => exact ih _ _
    | error f => rfl

theorem popAll_one (acc : Nat) (s : State) :
    popAll 1 acc s = (pop s).map fun r => (acc * 256 + r.1.toNat, r.2) := by
  rw [popAll]
  cases pop s <;> rfl

/-- Taking bytes from SP spares every byte once SP is put back. -/
theorem spares_of_pops {w : Touched} (hr : w.regs = []) (hf : w.flags = []) (hm : w.ram = []) (hi : w.io = [])
    (hsp : w.sp = false) (cfg : Config) (a : Word) : w.Spares cfg a := by
  unfold Touched.Spares
  cases route cfg a <;> simp only [hr, hm, List.not_mem_nil, not_false_eq_true]
  case io p => cases ioPlace cfg p <;> simp [hf, hi, hsp]

theorem popEvents_succ (s : State) (n : Nat) :
    s.popEvents (n + 1) = readEvents s.cfg (s.popSlot n) ++ s.popEvents n := by
  simp [State.popEvents, List.range_succ]

theorem popTouches_succ (s : State) (n : Nat) (h : OnlyTouches (s.popTouches n) t u) :
    OnlyTouches (s.popTouches (n + 1)) t u := by
  refine h.mono ?_ ?_ ?_ ?_ ?_ ?_ ?_ ?_ ?_ ?_ <;> simp +contextual [State.popTouches, List.range_succ]

/-- After `n` pops from `s`, which answered the number `m`: what `PoppedAnywhere` says of them, and where the next pop
goes. -/
structure PoppedSoFar (n m : Nat) (s t : State) : Prop where
  next : t.popSlot 0 = s.popSlot n
  sp : n ≠ 0 → t.sp = s.popSlot (n - 1)
  number : ∃ b : Nat → Byte, (∀ k < n, ∀ v, s.popByte k = some v → b k = v) ∧ m = numberOfBytes n b
  events : t.events = s.popEvents n
  frame : OnlyTouches (s.popTouches n) s t

theorem PoppedSoFar.zero (s : State) : PoppedSoFar 0 0 s s where
  next := rfl
  sp h := absurd rfl h
  number := ⟨fun _ => 0, nofun, rfl⟩
  events := rfl
  frame := .refl _ s

/-- The state that the pop after `n` others reads in has the bytes of `s` with SP moved. -/
theorem PoppedSoFar.dataByte_eq (h : PoppedSoFar n m s u) :
    ({ u with sp := s.popSlot n } : State).dataByte (s.popSlot n) = s.popByte n := by
  have hframe : OnlyTouches { s.popTouches n with sp := false } { s with sp := s.popSlot n }
      { u with sp := s.popSlot n } := { h.frame with sp := fun _ => rfl }
  exact hframe.dataByte_eq (spares_of_pops rfl rfl rfl rfl rfl _ _)

/-- One more pop. -/
theorem PoppedSoFar.succ (h : PoppedSoFar n m s u) (hp : pop u = .ok (v, t)) :
    PoppedSoFar (n + 1) (m * 256 + v.toNat) s t := by
  have hbyte := h.dataByte_eq
  have hcfg : u.cfg = s.cfg := h.frame.cfg
  rw [pop_eq, h.next] at hp
  have htouch := memRead_touches hp
  have hsp : t.sp = s.popSlot n := htouch.sp rfl
  obtain ⟨b, hb, hm⟩ := h.number
  refine ⟨?_, fun _ => hsp, ⟨Function.update b n v, fun k hk x hx => ?_, ?_⟩, ?_, ?_⟩
  · rw [← popSlot_succ, ← hsp]
    exact congrArg (moveSp · t.sp 1) (htouch.cfg.trans hcfg)
  · rcases Nat.lt_succ_iff_lt_or_eq.1 hk with hk | rfl
    · rw [Function.update_of_ne hk.ne]
      exact hb k hk x hx
    · rw [← hbyte] at hx
      rw [memRead_of_dataByte hx] at hp
      cases hp
      exact Function.update_self ..
  · have hsame : numberOfBytes n (Function.update b n v) = numberOfBytes n b :=
      numberOfBytes_congr fun k hk => Function.update_of_ne hk.ne v b
    rw [numberOfBytes_succ, Function.update_self, hsame, hm]
  · rw [memRead_events hp, popEvents_succ, ← h.events, ← hcfg]
  · refine (popTouches_succ s n h.frame).trans (htouch.of_withSp.mono ?_ ?_ ?_ ?_ ?_ ?_ ?_ ?_ ?_ ?_) <;>
      simp +contextual [State.popTouches, loadTouches, List.range_succ, hbyte]

/-- R62: the first `n` pops, where they can be made. -/
theorem popAll_lands (h : ∀ j < n, Completes s.cfg (s.popEvents j) (s.popSlot j)) :
    ∃ m u, popAll n 0 s = .ok (m, u) ∧ PoppedSoFar n m s u := by
  induction n with
  | zero => exact ⟨0, s, rfl, .zero s⟩
  | succ n ih =>
    obtain ⟨m, u, hu, hso⟩ := ih fun j hj => h j (Nat.lt_succ_of_lt hj)
    obtain ⟨⟨v, t⟩, ht⟩ : ∃ r, pop u = .ok r := by
      rw [pop_eq, hso.next, memRead_ok_iff]
      have hc := h n (Nat.lt_succ_self n)
      rwa [← hso.events, ← hso.frame.cfg] at hc
    refine ⟨m * 256 + v.toNat, t, ?_, hso.succ ht⟩
    rw [popAll_add, hu, Except.bind, popAll_one, ht]
    rfl

/-- R62: what ends with the fault of its pops stops where the first of them does. -/
theorem accessStops_of_popAll {N : Nat} {r : Result} (h : ∀ f, popAll N 0 s = .error f → r = .fault f) (hn : n < N)
    (hc : ∀ j < n, Completes s.cfg (s.popEvents j) (s.popSlot j)) :
    AccessStops s.cfg (s.popEvents n) (s.popSlot n) .ioRead r := by
  obtain ⟨m, u, hu, hso⟩ := popAll_lands hc
  obtain ⟨j, rfl⟩ : ∃ j, N = n + (j + 1) := ⟨N - n - 1, by omega⟩
  rw [← hso.frame.cfg, ← hso.events]
  refine AccessStops.of_memRead (s := { u with sp := s.popSlot n }) fun f hf => h f ?_
  have hpop : pop u = .error f := by rw [pop_eq, hso.next, hf]
  rw [popAll_add, hu, Except.bind, popAll, hpop]

/-! ## RET and RETI over any stack -/

theorem pcBytes_ne_zero (cfg : Config) : pcBytes cfg ≠ 0 := by
  unfold pcBytes
  split <;> omega

/-- R64, R154: a return takes its address wherever the bytes can be read. -/
theorem returnFromCall_lands (h : ∀ j < pcBytes s.cfg, Completes s.cfg (s.popEvents j) (s.popSlot j)) :
    ∃ t, returnFromCall s = .ok t ∧ PoppedAnywhere (pcBytes s.cfg) s t ∧
      OnlyTouches (s.popTouches (pcBytes s.cfg)) s t := by
  obtain ⟨m, u, hu, hso⟩ := popAll_lands h
  obtain ⟨b, hb, hm⟩ := hso.number
  refine ⟨{ u with pc := truncPc s.cfg m },
    returnFromCall_ok_iff.2 ⟨_, u, popPc_ok_iff.2 ⟨m, hu, rfl⟩, rfl⟩,
    ⟨hso.sp (pcBytes_ne_zero s.cfg), ⟨b, hb, fun h22 => ?_⟩, hso.events⟩, hso.frame.withPc _⟩
  rw [toNat_truncPc_natCast h22, hm]

theorem returnFromCall_error (h : popAll (pcBytes s.cfg) 0 s = .error f) : returnFromCall s = .error f := by
  rw [returnFromCall, popPc, h]

/-- R155: RETI is RET with I and `irq_inhibit` set. -/
theorem reti_of_ret (h : returnFromCall s = .ok t) :
    exec .reti s = .next { t.setFlag .i true with irqInhibit := true } := by
  rw [exec, execReti, returnFromInterrupt, h]
  rfl

theorem OnlyTouches.setI {w : Touched} (h : OnlyTouches w s t) (hw : w.flags = []) :
    OnlyTouches { w with flags := [.i], inhibit := true } s { t.setFlag .i true with irqInhibit := true } :=
  { h with
    flags := fun g hg => by
      have hgi : g ≠ .i := by simpa using hg
      have hflag : getFlag (putFlag t.sreg .i true) g = getFlag t.sreg g := by simp [hgi]
      exact hflag.trans (h.flags g (by simp [hw]))
    inhibit := nofun }

theorem flag_setI (t : State) : ({ t.setFlag .i true with irqInhibit := true } : State).flag .i = true :=
  (getFlag_putFlag t.sreg .i .i true).trans (if_pos rfl)

/-- Settles O38. -/
theorem returnsOverAnyStack : Obligations.ReturnsOverAnyStack := by
  intro s
  refine ⟨fun h => ?_, fun n hn hc => ?_⟩
  · obtain ⟨t, ht, hpop, hframe⟩ := returnFromCall_lands h
    refine ⟨⟨t, conclude_eq_next.2 ht, hpop, hframe⟩,
      ⟨_, reti_of_ret ht, ⟨hpop.sp, hpop.pc, hpop.events⟩, flag_setI t, rfl, hframe.setI rfl⟩⟩
  · simp only [List.forall_mem_cons]
    refine ⟨accessStops_of_popAll (fun f hf => ?_) hn hc, accessStops_of_popAll (fun f hf => ?_) hn hc,
      List.forall_mem_nil _⟩
    · rw [exec, execRet, returnFromCall_error hf]
      rfl
    · rw [exec, execReti, returnFromInterrupt, returnFromCall_error hf]
      rfl

/-! ## The stack in RAM -/

theorem State.ReturnOnStack.popByte {x k : Nat} (h : s.ReturnOnStack x) (hk : k < pcBytes s.cfg) :
    s.popByte k = some (BitVec.ofNat 8 (x / 256 ^ (pcBytes s.cfg - 1 - k))) := by
  obtain ⟨hr, hb⟩ := h.2 k hk
  simp only [State.popByte, State.dataByte, hr]
  exact hb

/-- R64, R154: a return address in RAM is taken as it is. -/
theorem returnFromCall_of_returnOnStack {x : Nat} (h : s.ReturnOnStack x) :
    ∃ t, returnFromCall s = .ok t ∧ t.pc = truncPc s.cfg x ∧ t.sp = s.popSlot (pcBytes s.cfg - 1) ∧
      OnlyTouches { sp := true } s t := by
  obtain ⟨m, u, hu, hso⟩ := popAll_lands (n := pcBytes s.cfg) fun j hj => completes_of_ram (h.2 j hj).1 _
  obtain ⟨b, hb, hm⟩ := hso.number
  have hx : m = x := by
    rw [hm, numberOfBytes_of_digits _ x b fun k hk => hb k hk _ (h.popByte hk), Nat.mod_eq_of_lt]
    calc x < 2 ^ (8 * pcBytes s.cfg) := h.1
      _ = 256 ^ pcBytes s.cfg := by rw [Nat.pow_mul]
  have hfree : s.popTouches (pcBytes s.cfg) = { sp := true } := by
    have hany : ((List.range (pcBytes s.cfg)).any fun k => (s.popByte k).isNone) = false := by
      rw [List.any_eq_false]
      intro k hk
      rw [h.popByte (List.mem_range.1 hk)]
      exact Bool.false_ne_true
    rw [State.popTouches, hany]
  rw [hx] at hu
  exact ⟨{ u with pc := truncPc s.cfg x }, returnFromCall_ok_iff.2 ⟨_, u, popPc_ok_iff.2 ⟨x, hu, rfl⟩, rfl⟩, rfl,
    hso.sp (pcBytes_ne_zero s.cfg), (hfree ▸ hso.frame).withPc _⟩

/-- Settles O37. -/
theorem returnsTakeTheAddressFromTheStack : Obligations.ReturnsTakeTheAddressFromTheStack := by
  intro s x h22 h
  obtain ⟨t, ht, hpc, hsp, hframe⟩ := returnFromCall_of_returnOnStack h
  have hpc' : t.pc.toNat = x % 2 ^ s.cfg.pcBits := by rw [hpc, toNat_truncPc_natCast h22]
  exact ⟨⟨t, conclude_eq_next.2 ht, hpc', hsp, hframe⟩,
    ⟨_, reti_of_ret ht, hpc', hsp, flag_setI t, rfl, hframe.setI rfl⟩⟩

/-! ## There and back: what a push put in RAM, a return takes -/

/-- R63, R64: a return address pushed in RAM is a return address on the stack. -/
theorem returnOnStack_of_pushed (hinv : s.Inv) (hw : w.toNat < 2 ^ s.cfg.pcBits) (hroom : s.PushRoom (pcBytes s.cfg))
    (hcfg : t.cfg = s.cfg) (hsp : t.sp = s.pushSlot (pcBytes s.cfg)) (h : ReturnPushed (pcBytes s.cfg) w s t) :
    t.ReturnOnStack w.toNat := by
  have h22 := hinv.config.2.1
  unfold State.ReturnOnStack
  rw [hcfg]
  refine ⟨hw.trans_le (Nat.pow_le_pow_right (by decide) ?_), fun k hk => ?_⟩
  · unfold pcBytes
    split <;> omega
  · rw [popSlot_of_pushed hcfg hsp hk]
    exact ⟨hroom _ (by omega), h _ (by omega)⟩

/-- R63, R64: from a state with a return address just pushed a return comes back to it, with SP as before. -/
theorem returnFromCall_of_pushed (hinv : s.Inv) (hw : w.toNat < 2 ^ s.cfg.pcBits)
    (hroom : s.PushRoom (pcBytes s.cfg)) (hcfg : t.cfg = s.cfg) (hsp : t.sp = s.pushSlot (pcBytes s.cfg))
    (h : ReturnPushed (pcBytes s.cfg) w s t) :
    ∃ u, returnFromCall t = .ok u ∧ u.pc = w ∧ u.sp = s.sp ∧ OnlyTouches { sp := true } t u := by
  obtain ⟨u, hu, hpc, husp, hframe⟩ :=
    returnFromCall_of_returnOnStack (returnOnStack_of_pushed hinv hw hroom hcfg hsp h)
  have hn := pcBytes_ne_zero s.cfg
  refine ⟨u, hu, ?_, ?_, hframe⟩
  · rw [hpc, hcfg]
    exact BitVec.eq_of_toNat_eq (truncPc_of_lt hinv.config.2.1 hw)
  · rw [husp, hcfg, popSlot_of_pushed hcfg hsp (by omega), Nat.sub_self, hinv.pushSlot_zero]

/-- A frame in which SP came back. -/
theorem OnlyTouches.sp_back {w : Touched} (h : OnlyTouches { w with sp := true } s t) (hsp : t.sp = s.sp) :
    OnlyTouches w s t :=
  { h with sp := fun _ => hsp }

/-- Pushing to RAM and popping from it, all in all. -/
theorem frame_there_and_back {ram : List Nat} (h : OnlyTouches { sp := true, ram := ram } s t)
    (k : OnlyTouches { sp := true } t u) (hsp : u.sp = s.sp) : OnlyTouches { ram := ram } s u := by
  have k' : OnlyTouches { sp := true, ram := ram } t u := { k with ram := fun a _ => k.ram a (List.not_mem_nil) }
  exact OnlyTouches.sp_back (w := { ram := ram }) (h.trans k') hsp

/-- Settles O21. -/
theorem popPcReturnsThePushedAddress : Obligations.PopPcReturnsThePushedAddress := by
  intro s w0 w hinv hw hroom
  obtain ⟨t, ht, hp⟩ := pushPc_lands hinv (hroom.lands hinv.config w) w0
  obtain ⟨u, hu, hpc, hsp, hframe⟩ :=
    returnFromCall_of_pushed hinv hw hroom hp.frame.cfg hp.sp (hp.returnPushed hroom)
  obtain ⟨w', u', hpop, rfl⟩ := returnFromCall_ok_iff.1 hu
  obtain rfl : w' = w := hpc
  have hback := frame_there_and_back (hp.frame_ram hroom) hframe hsp
  exact ⟨t, u', ht, hpop, hsp, hback.withPc u'.pc⟩

/-- Settles O39. -/
theorem callThenReturnComesBack : Obligations.CallThenReturnComesBack := by
  intro k s hinv hroom
  have hback {target : PcWord} {i : Instr} (hi : exec i s = conclude (callTo (encodeWord i) target s)) :
      ∃ t u, exec i s = .next t ∧ exec .ret t = .next u ∧ u.pc = s.pcAfter 1 ∧ u.sp = s.sp ∧
        OnlyTouches { ram := s.pushBytes (pcBytes s.cfg) } s u := by
    obtain ⟨t, ht, -, hsp, hpushed, hframe⟩ := callTo_room hi hinv hroom
    obtain ⟨u, hu, hpc, husp, hpop⟩ :=
      returnFromCall_of_pushed hinv (truncPc_fits hinv.config.2.1 _) hroom hframe.cfg hsp hpushed
    exact ⟨t, u, ht, conclude_eq_next.2 hu, hpc, husp, frame_there_and_back hframe hpop husp⟩
  simp only [List.forall_mem_cons]
  exact ⟨hback rfl, hback rfl, List.forall_mem_nil _⟩

end Sys2Proof.Machine
end

section
/-! # Interrupt entry (spec/60_exceptions.md R308) -/

namespace Sys2Proof.Machine

variable {s t u : State} {w : PcWord} {f : Fault} {n v : Nat}

/-- The state after interrupt entry for vector `v`, `u` being the one after the pushes. -/
def State.entered (u : State) (v : Nat) : State :=
  { u.setFlag .i false with
    sleeping := false
    pc := truncPc u.cfg ((v * u.cfg.vectorStride : Nat) : Int)
    events := .irqAccepted v :: u.events }

theorem takeInterrupt_of_pushed (h : pushPc none s.pc s = .ok u) : takeInterrupt v s = .ok (u.entered v) :=
  takeInterrupt_ok_iff.2 ⟨u, h, rfl⟩

theorem flag_entered (u : State) (v : Nat) : (u.entered v).flag .i = false :=
  (getFlag_putFlag u.sreg .i .i false).trans (if_pos rfl)

theorem entered_touches (u : State) (v : Nat) :
    OnlyTouches { flags := [.i], sleeping := true, events := true } u (u.entered v) :=
  { OnlyTouches.refl { flags := [.i], sleeping := true, events := true } u with
    flags := fun g hg => by
      have hgi : g ≠ .i := by simpa using hg
      have hflag : getFlag (putFlag u.sreg .i false) g = getFlag u.sreg g := by simp [hgi]
      exact hflag
    sleeping := nofun
    events := nofun }

/-- R308: the vectors lie in program memory, so control goes to the vector's own address. -/
theorem pc_entered (hwf : u.cfg.WF) (hv : v < u.cfg.numVectors) :
    (u.entered v).pc.toNat = v * u.cfg.vectorStride := by
  obtain ⟨-, h22, hflash, -, -, -, -, -, -, -, -, -, -, -, -, -, hstride, -, hfit⟩ := hwf
  refine truncPc_of_lt h22 ?_
  calc v * u.cfg.vectorStride < u.cfg.numVectors * u.cfg.vectorStride := Nat.mul_lt_mul_of_pos_right hv hstride
    _ ≤ 2 ^ u.cfg.pcBits := hfit.trans hflash

theorem lt_numVectors_of_taken {requests : List Nat} (h : interruptTaken requests s = some v) :
    v < s.cfg.numVectors := by
  unfold interruptTaken at h
  split at h
  · obtain ⟨-, -, hv, -⟩ := firstRequest_eq_some.1 h
    exact hv
  · cases h

theorem step_of_taken (hr : (nextInput s).1.reset = false) (hs : s.stopped = false)
    (h : interruptTaken (nextInput s).1.requests s = some v) :
    step s = conclude (takeInterrupt v { s with inputs := s.inputs.tail }) := by
  have h' : interruptTaken (nextInput s).1.requests { s with inputs := s.inputs.tail } = some v := h
  rw [step, nextInput_snd, stepWith, if_neg (by simp [hr]), if_neg (by simp [hs]), h']

theorem State.Inv.withInputs (h : s.Inv) (is : List PlatformInput) : ({ s with inputs := is } : State).Inv := { h with }

/-- Settles O12. -/
theorem interruptEntrySavesAndVectors : Obligations.InterruptEntrySavesAndVectors := by
  intro s v hinv hr hs htaken
  have hv := lt_numVectors_of_taken htaken
  have hinv' := hinv.withInputs s.inputs.tail
  rw [step_of_taken hr hs htaken, nextInput_snd]
  have hland (h : s.PushesLand (pcBytes s.cfg) s.pc) : ∃ u,
      PushedAnywhere (pcBytes s.cfg) s.pc { s with inputs := s.inputs.tail } u ∧
      conclude (takeInterrupt v { s with inputs := s.inputs.tail }) = .next (u.entered v) ∧
      (u.entered v).pc.toNat = v * s.cfg.vectorStride := by
    obtain ⟨u, hu, hp⟩ := pushPc_lands hinv' h none
    have hcfg : u.cfg = s.cfg := hp.frame.cfg
    refine ⟨u, hp, conclude_eq_next.2 (takeInterrupt_of_pushed hu), ?_⟩
    rw [← hcfg]
    exact pc_entered (hcfg ▸ hinv.config) (hcfg ▸ hv)
  refine ⟨fun hroom => ?_, fun h => ?_,
    pushStops_of_pushPc (s := { s with inputs := s.inputs.tail }) hinv' fun f hf => ?_⟩
  · obtain ⟨u, hp, hstep, hpc⟩ := hland (hroom.lands hinv.config s.pc)
    have hevents : u.events = s.events := hp.events.trans (hroom.events s.pc)
    refine ⟨u.entered v, hstep, hpc, flag_entered u v, rfl, congrArg _ hevents, hp.sp, hp.returnPushed hroom, ?_⟩
    have hpush := hp.frame_ram hroom
    have henter := entered_touches u v
    refine OnlyTouches.trans (t := u) (hpush.mono ?_ ?_ ?_ ?_ ?_ ?_ ?_ ?_ ?_ ?_)
      (henter.mono ?_ ?_ ?_ ?_ ?_ ?_ ?_ ?_ ?_ ?_) <;> simp
    exact fun a ha => ha
  · obtain ⟨u, hp, hstep, hpc⟩ := hland h
    exact ⟨u, u.entered v, hp, hstep, hpc, flag_entered u v, rfl, rfl, entered_touches u v⟩
  · rw [takeInterrupt, hf]
    rfl

/-- Settles O40. -/
theorem interruptThenRetiComesBack : Obligations.InterruptThenRetiComesBack := by
  intro v s hinv hi hroom
  obtain ⟨u, hu, hp⟩ := pushPc_lands hinv (hroom.lands hinv.config s.pc) none
  have hpush := hp.frame_ram hroom
  have henter := entered_touches u v
  obtain ⟨r, hr, hpc, hsp, hpop⟩ := returnFromCall_of_pushed (t := u.entered v) hinv hinv.pcFits hroom
    hp.frame.cfg hp.sp (hp.returnPushed hroom)
  have hflag (g : Flag) (hg : g ≠ .i) : r.flag g = s.flag g := by
    rw [hpop.flags g (List.not_mem_nil), henter.flags g (by simpa using hg), hpush.flags g (List.not_mem_nil)]
  have hsreg : putFlag r.sreg .i true = s.sreg := sreg_ext fun g => by
    rw [getFlag_putFlag]
    split
    · rename_i hg
      rw [hg]
      exact hi.symm
    · exact hflag g ‹_›
  refine ⟨u.entered v, { r.setFlag .i true with irqInhibit := true }, takeInterrupt_of_pushed hu, reti_of_ret hr, hpc,
    hsp, hsreg, rfl, ?_⟩
  exact {
    cfg := hpop.cfg.trans (henter.cfg.trans hpush.cfg)
    regs := fun i _ => (hpop.regs i (List.not_mem_nil)).trans (hpush.regs i (List.not_mem_nil))
    flags := fun g _ => congrArg (getFlag · g) hsreg
    sp := fun _ => hsp
    ram := fun a ha => (hpop.ram a (List.not_mem_nil)).trans (hpush.ram a ha)
    io := fun a _ => (hpop.io a (List.not_mem_nil)).trans (hpush.io a (List.not_mem_nil))
    flash := fun a => (hpop.flash a).trans (hpush.flash a)
    inputs := hpop.inputs.trans hpush.inputs
    inhibit := nofun
    sleeping := nofun
    stopped := fun _ => (hpop.stopped rfl).trans (hpush.stopped rfl)
    events := nofun
    draws := fun _ => (hpop.draws rfl).trans (hpush.draws rfl) }

end Sys2Proof.Machine
end

section
/-! # The illegal first words (spec/30_encoding.md section 4) -/

namespace Sys2Proof

/-! ## Words with some bits fixed -/

/-- Some bits of a word, those of `mask`, and their values. -/
structure FixedBits where
  mask : Word
  value : Word

/-- The word has these bits. -/
def FixedBits.Holds (p : FixedBits) (w : Word) : Prop := ∀ i, p.mask.getLsbD i = true → w.getLsbD i = p.value.getLsbD i

/-- The bits from `a` upward are those of `x`. -/
def fieldIs (a : Nat) {n : Nat} (x : BitVec n) : FixedBits where
  mask := (BitVec.allOnes n).setWidth 16 <<< a
  value := x.setWidth 16 <<< a

/-- The bits that a row of the opcode map fixes. -/
def OpcodeRow.bits (row : OpcodeRow) : FixedBits := ⟨row.mask, row.pattern⟩

theorem holds_fieldIs {a n : Nat} (h : a + n ≤ 16) (x : BitVec n) (w : Word) :
    (fieldIs a x).Holds w ↔ w.extractLsb' a n = x := by
  simp only [FixedBits.Holds, fieldIs, BitVec.getLsbD_shiftLeft, BitVec.getLsbD_setWidth, BitVec.getLsbD_allOnes,
    Bool.and_eq_true, decide_eq_true_eq, Bool.not_eq_true', decide_eq_false_iff_not, Nat.not_lt]
  constructor
  · intro hw
    refine BitVec.eq_of_getLsbD_eq fun i hi => ?_
    rw [BitVec.getLsbD_extractLsb', hw (a + i) ⟨⟨by omega, by omega⟩, by omega, by omega⟩]
    simp [hi, show a + i < 16 by omega, show i < 16 by omega]
  · rintro rfl i ⟨⟨hi, ha⟩, hi', hn⟩
    simp [hi, hi', hn, ha, show a + (i - a) = i by omega]

/-- The pattern of a row lies within its mask. -/
def OpcodeRow.tight (row : OpcodeRow) : Bool := row.pattern &&& row.mask == row.pattern

theorem OpcodeRow.holds_bits_iff {row : OpcodeRow} (ht : row.tight = true) (w : Word) :
    row.bits.Holds w ↔ row.matchesWord w = true := by
  have ht : row.pattern &&& row.mask = row.pattern := eq_of_beq ht
  simp only [FixedBits.Holds, OpcodeRow.bits, OpcodeRow.matchesWord, beq_iff_eq]
  constructor
  · refine fun h => word_ext fun i hi => ?_
    rw [← ht, BitVec.getLsbD_and, BitVec.getLsbD_and]
    cases hm : row.mask.getLsbD i
    · simp
    · simp [h i hm]
  · rintro h i hm
    rw [← h, BitVec.getLsbD_and, hm, Bool.and_true]

/-- Words with several parts fixed. -/
abbrev Cube := List FixedBits

/-- The word has the bits of every part. -/
def Cube.Holds (c : Cube) (w : Word) : Prop := ∀ p ∈ c, p.Holds w

/-- Two cubes fix a bit differently. -/
def Cube.differs (c d : Cube) : Bool := c.any fun p => d.any fun q => p.mask &&& q.mask &&& (p.value ^^^ q.value) != 0

theorem Cube.not_both_of_differs {c d : Cube} (h : c.differs d = true) {w : Word} (hc : c.Holds w) : ¬d.Holds w := by
  intro hd
  simp only [Cube.differs, List.any_eq_true, bne_iff_ne] at h
  obtain ⟨p, hp, q, hq, hne⟩ := h
  refine hne (word_ext fun i _ => ?_)
  simp only [BitVec.getLsbD_and, BitVec.getLsbD_xor, BitVec.ofNat_eq_ofNat, BitVec.getLsbD_zero]
  by_cases hm : p.mask.getLsbD i = true ∧ q.mask.getLsbD i = true
  · rw [← hc p hp i hm.1, ← hd q hq i hm.2, Bool.xor_self, Bool.and_false]
  · rw [Bool.eq_false_iff.2 (mt Bool.and_eq_true_iff.1 hm), Bool.false_and]

/-! ## A list of cubes that holds every word -/

/-- The cube fixes no bit below `n`. -/
def Cube.freeBelow (c : Cube) (n : Nat) : Bool := c.all fun p => p.mask.toNat % 2 ^ n == 0

/-- The cube leaves room for bit `i` to be `b`. -/
def Cube.allows (c : Cube) (i : Nat) (b : Bool) : Bool := c.all fun p => !p.mask.getLsbD i || p.value.getLsbD i == b

/-- Every word with some upper bits, those from bit `n` on, has the bits of one of the cubes, which allow those upper
bits: by cases on the bits below `n`. -/
def covers : Nat → List Cube → Bool
  | 0, cs => cs.any (·.freeBelow 0)
  | n + 1, cs =>
    cs.any (·.freeBelow (n + 1)) ||
      covers n (cs.filter (·.allows n false)) && covers n (cs.filter (·.allows n true))

/-- The word has those bits of the cube that are not below `n`. -/
def Cube.HoldsFrom (n : Nat) (c : Cube) (w : Word) : Prop :=
  ∀ p ∈ c, ∀ i, n ≤ i → p.mask.getLsbD i = true → w.getLsbD i = p.value.getLsbD i

theorem Cube.holds_of_freeBelow {c : Cube} {n : Nat} {w : Word} (h : c.freeBelow n = true) (hw : c.HoldsFrom n w) :
    c.Holds w := by
  intro p hp i hm
  refine hw p hp i ?_ hm
  by_contra hi
  have hfree : p.mask.toNat % 2 ^ n = 0 := eq_of_beq (List.all_eq_true.1 h p hp)
  have hbit : (p.mask.toNat % 2 ^ n).testBit i = (decide (i < n) && p.mask.getLsbD i) := Nat.testBit_mod_two_pow ..
  simp [hfree, hm] at hbit
  omega

theorem exists_of_any_freeBelow {cs : List Cube} {n : Nat} {w : Word} (h : cs.any (·.freeBelow n) = true)
    (hw : ∀ c ∈ cs, c.HoldsFrom n w) : ∃ c ∈ cs, c.Holds w := by
  obtain ⟨c, hc, hfree⟩ := List.any_eq_true.1 h
  exact ⟨c, hc, Cube.holds_of_freeBelow hfree (hw c hc)⟩

theorem Cube.holdsFrom_of_allows {c : Cube} {n : Nat} {w : Word} (h : c.allows n (w.getLsbD n) = true)
    (hw : c.HoldsFrom (n + 1) w) : c.HoldsFrom n w := by
  intro p hp i hi hm
  rcases Nat.eq_or_lt_of_le hi with rfl | hi
  · have hallow := List.all_eq_true.1 h p hp
    rw [hm, Bool.not_true, Bool.false_or, beq_iff_eq] at hallow
    exact hallow.symm
  · exact hw p hp i hi hm

theorem exists_of_covers {n : Nat} {cs : List Cube} {w : Word} (h : covers n cs = true)
    (hw : ∀ c ∈ cs, c.HoldsFrom n w) : ∃ c ∈ cs, c.Holds w := by
  induction n generalizing cs with
  | zero => exact exists_of_any_freeBelow h hw
  | succ n ih =>
    rw [covers, Bool.or_eq_true, Bool.and_eq_true] at h
    rcases h with h | ⟨hfalse, htrue⟩
    · exact exists_of_any_freeBelow h hw
    · have hstep : covers n (cs.filter (·.allows n (w.getLsbD n))) = true := by
        cases w.getLsbD n
        · exact hfalse
        · exact htrue
      obtain ⟨c, hc, hholds⟩ := ih hstep fun c hc =>
        Cube.holdsFrom_of_allows (List.mem_filter.1 hc).2 (hw c (List.mem_of_mem_filter hc))
      exact ⟨c, List.mem_of_mem_filter hc, hholds⟩

/-! ## The reserved words (R100) -/

/-- The table of R100: bits that make a first word illegal, and the legal words among those that have them. -/
def reservedWords : List (Cube × List Word) :=
  [([fieldIs 8 0b00000000#8], [0]), ([fieldIs 8 0b00000001#8], []), ([fieldIs 8 0b00000010#8], []),
    ([fieldIs 8 0b00000011#8], [])] ++
  [0b0011#4, 0b0100#4, 0b0101#4, 0b0110#4, 0b0111#4, 0b1000#4, 0b1011#4].map
    (fun x => ([fieldIs 10 0b100100#6, fieldIs 0 x], [])) ++
  [([fieldIs 9 0b1001010#7, fieldIs 0 0b0100#4], [])] ++
  [0x9528#16, 0x9538#16, 0x9548#16, 0x9558#16, 0x9568#16, 0x9578#16, 0x95B8#16, 0x95D8#16, 0x95E8#16, 0x95F8#16].map
    (fun x => ([fieldIs 0 x], [])) ++
  [([fieldIs 9 0b1001010#7, fieldIs 0 0b1001#4], [0x9409, 0x9509]),
    ([fieldIs 9 0b1001010#7, fieldIs 0 0b1011#4], []), ([fieldIs 9 0b1001010#7, fieldIs 2 0b11#2], []),
    ([fieldIs 10 0b100111#6], []), ([fieldIs 11 0b11111#5, fieldIs 3 0b1#1], [])]

theorem opcodeRows_tight : ∀ row ∈ opcodeRows, row.tight = true := by decide +kernel

/-- A row of the opcode map differs from a reserved entry, or is one of the words the entry leaves out. -/
def OpcodeRow.apart (row : OpcodeRow) (e : Cube × List Word) : Bool :=
  e.1.differs [row.bits] || row.mask == 0xFFFF && e.2.contains row.pattern

theorem reservedWords_apart : ∀ e ∈ reservedWords, ∀ row ∈ opcodeRows, row.apart e = true := by decide +kernel

theorem reservedWords_legal : ∀ e ∈ reservedWords, e.2.all isLegalWord = true := by decide +kernel

theorem rows_and_reservedWords_cover :
    covers 16 (opcodeRows.map (fun row => [row.bits]) ++ reservedWords.map Prod.fst) = true := by decide +kernel

/-- R100: a first word is illegal exactly where the table reserves it. -/
theorem isLegalWord_eq_false_iff {w : Word} :
    isLegalWord w = false ↔ ∃ e ∈ reservedWords, e.1.Holds w ∧ w ∉ e.2 := by
  constructor
  · intro h
    have hrow : ∀ row ∈ opcodeRows, ¬row.bits.Holds w := fun row hr hb => by
      rw [row.holds_bits_iff (opcodeRows_tight row hr)] at hb
      have hlegal : isLegalWord w = true := List.any_eq_true.2 ⟨row, hr, hb⟩
      simp [h] at hlegal
    obtain ⟨c, hc, hw⟩ := exists_of_covers (w := w) rows_and_reservedWords_cover fun c _ p _ i hi hm => by
      simp [BitVec.getLsbD_of_ge p.mask i hi] at hm
    rcases List.mem_append.1 hc with hc | hc
    · obtain ⟨row, hr, rfl⟩ := List.mem_map.1 hc
      exact absurd (hw _ (.head _)) (hrow row hr)
    · obtain ⟨e, he, rfl⟩ := List.mem_map.1 hc
      exact ⟨e, he, hw, fun hmem => by simp [List.all_eq_true.1 (reservedWords_legal e he) w hmem] at h⟩
  · rintro ⟨e, he, hw, hout⟩
    refine Bool.eq_false_iff.2 fun h => ?_
    obtain ⟨row, hr, hm⟩ := List.any_eq_true.1 h
    have hb := (row.holds_bits_iff (opcodeRows_tight row hr) w).2 hm
    have hapart := reservedWords_apart e he row hr
    rw [OpcodeRow.apart, Bool.or_eq_true, Bool.and_eq_true, beq_iff_eq, List.contains_iff_mem] at hapart
    rcases hapart with hd | ⟨hmask, hword⟩
    · exact Cube.not_both_of_differs hd hw (List.forall_mem_singleton.2 hb)
    · have hword' : w = row.pattern := by
        rw [OpcodeRow.matchesWord, beq_iff_eq, hmask] at hm
        exact (BitVec.and_allOnes (x := w)).symm.trans hm
      exact hout (hword' ▸ hword)

/-- Settles O3. -/
theorem illegalFirstWordsArePatterns : Obligations.IllegalFirstWordsArePatterns := by
  intro w
  rw [isLegalWord_eq_false_iff]
  simp [reservedWords, Cube.Holds, holds_fieldIs, or_assoc, and_or_left, and_assoc]

end Sys2Proof
end
